-- ==== Sys2Proof/Word.lean ====
section
/-! DEFINITION. The widths of the frame core's values (spec/00_scope.md R8, R11): bytes, 16-bit lanes and checksums, and
the 18-bit decode key (spec/30_encoding.md R86). Every value is unsigned. -/

namespace Sys2Proof

/-- A byte of the stream, of the frame buffer, `version` or `error_code` (R8). -/
abbrev Byte := BitVec 8

/-- A lane or a checksum, "uint16" (R8). -/
abbrev Word16 := BitVec 16

/-- The decode key that selects one operation per cycle (R86). -/
abbrev Key := BitVec 18

end Sys2Proof
end

