-- ==== Sys2Proof/Syntax.lean ====
section
/-! DEFINITION. The names the spec gives: controller states, fault codes, the nineteen step operations of
spec/opcode_table.json, and the records that cross the ports (one cycle's inputs, one Reading). Data only. -/

namespace Sys2Proof

/-- The eight values of the 3-bit register `fsm` (spec/10_state.md R21): six legal states and the two reserved encodings
of R22, which the operation RSV_STATE leaves. The encodings stand in Decode.lean (`Fsm.code`). -/
inductive Fsm where
  | idle
  | hunt
  | got42
  | payload
  | emit
  | rsv101
  | rsv110
  | fault
  deriving DecidableEq, Repr, Inhabited

/-- The four values of the 2-bit register `fault_code` (R25); `rsv11` is the encoding the spec reserves and never writes. -/
inductive FaultCode where
  | none
  | transport
  | internal
  | rsv11
  deriving DecidableEq, Repr, Inhabited

/-- The states in which ERR_BUSY is selected (spec/60_exceptions.md R183). -/
inductive BusyFsm where
  | hunt
  | got42
  | payload
  deriving DecidableEq, Repr

/-- The states in which RSV_STATE is selected (R186). -/
inductive RsvFsm where
  | rsv101
  | rsv110
  deriving DecidableEq, Repr

/-- The step operations, one constructor per row of spec/opcode_table.json in the table's (priority) order. The operands
are the decode-key fields that the operation's rule names under "Operands" and its row leaves open: the reason a gate
stays closed, the busy or reserved state left, the byte on `src_data`. -/
inductive Instr where
  /-- RST (R210) -/
  | rst
  /-- FAULT_HOLD (R184) -/
  | faultHold
  /-- EMIT_ACCEPT (R153) -/
  | emitAccept
  /-- EMIT_HOLD (R152) -/
  | emitHold
  /-- RSV_STATE (R186): the reserved encoding `fsm` holds -/
  | rsvState (held : RsvFsm)
  /-- ERR_IDLE (R182) -/
  | errIdle
  /-- IDLE_GATE (R111) -/
  | idleGate
  /-- IDLE_WAIT (R110): `run`, `src_err` and `src_avail >= 32`, which together do not pass the gate -/
  | idleWait (run err ge32 : Bool)
  /-- ERR_BUSY (R183): the state the error is taken in -/
  | errBusy (held : BusyFsm)
  /-- HUNT_STALL (R113) -/
  | huntStall
  /-- HUNT_HIT (R115); `src_data` is `0x42` -/
  | huntHit
  /-- HUNT_DISCARD (R114): the byte dropped, not `0x42` -/
  | huntDiscard (data : Byte)
  /-- M2_STALL (R116) -/
  | m2Stall
  /-- M2_LOCK (R117); `src_data` is `0x4D` -/
  | m2Lock
  /-- M2_REHIT (R119); `src_data` is `0x42` -/
  | m2Rehit
  /-- M2_BREAK (R118): the byte dropped, neither `0x4D` nor `0x42` -/
  | m2Break (data : Byte)
  /-- PL_STALL (R120) -/
  | plStall
  /-- PL_LAST (R123): the 30th payload byte -/
  | plLast (data : Byte)
  /-- PL_CAPTURE (R122): the payload byte captured -/
  | plCapture (data : Byte)
  deriving DecidableEq, Repr

/-- What the external agents choose in one cycle (spec/20_memory.md R60, R67): the controller's `rst` and `run`, the byte
source's `src_err` and how many of the bytes it holds it leaves out of its count (0 for a source that keeps its duty of
R60; "under-reporting is safe", spec/70_reset_and_hazards.md R220), the reader's `rd_ready`, the byte `src_data` shows while
`src_avail` is 0 (R67 "any byte"), and the list `A` of bytes the producer appends at the end of the cycle (R52). -/
structure CycleInput where
  rst : Bool
  run : Bool
  srcErr : Bool
  rdReady : Bool
  withheld : Nat
  emptyData : Byte
  appended : List Byte
  deriving DecidableEq, Repr, Inhabited

/-- The data outputs of the reader port (spec/10_state.md R31): fifteen lanes, `rd_version`, `rd_error_code`,
`rd_csum_decl`, `rd_csum_calc`, `rd_csum_ok`. -/
structure Reading where
  lane0 : Word16
  lane1 : Word16
  lane2 : Word16
  lane3 : Word16
  lane4 : Word16
  lane5 : Word16
  lane6 : Word16
  lane7 : Word16
  lane8 : Word16
  lane9 : Word16
  lane10 : Word16
  lane11 : Word16
  lane12 : Word16
  lane13 : Word16
  lane14 : Word16
  version : Byte
  errorCode : Byte
  csumDecl : Word16
  csumCalc : Word16
  csumOk : Bool
  deriving DecidableEq, Repr, Inhabited

end Sys2Proof
end

