-- ==== Sys2Proof/Config.lean ====
section
/-! DEFINITION. The fixed parameters of spec/00_scope.md R7, the parameters R9 and R10 leave to an instance, and the values the
spec leaves free (opaque constants: no proof can see what they are). -/

namespace Sys2Proof

/-- `MARKER0`, the first start-marker byte (R7). -/
def Config.marker0 : Byte := 0x42

/-- `MARKER1`, the second start-marker byte (R7). -/
def Config.marker1 : Byte := 0x4D

/-- `MARKER_SUM`, the marker's share of the checksum (R7). -/
def Config.markerSum : Nat := 0xFF

/-- `PAYLOAD_LEN`, the bytes of a RawFrame (R7). -/
def Config.payloadLen : Nat := 30

/-- `GATE_MIN`, the bytes that must be available before a frame attempt starts (R7). -/
def Config.gateMin : Nat := 32

/-- `CSUM_LAST`, the last payload offset summed; "Legal values are 26 and 27" (R9). -/
inductive CsumLast where
  /-- offset 26, the normative value (90_conflicts.md C1) -/
  | at26
  /-- offset 27, for "a sensor whose checksum also covers the `error_code` byte" -/
  | at27
  deriving DecidableEq, Repr, Inhabited

/-- `SRC_DEPTH`, the capacity of the byte source's queue: "integer ≥ 32, or unbounded" (R10). -/
inductive SrcDepth where
  | unbounded
  /-- 32 bytes and `extra` more -/
  | bounded (extra : Nat)
  deriving DecidableEq, Repr, Inhabited

/-- The parameters a model takes as arguments (R9, R10), legal by construction. State carries them, and no operation writes
them (log entry 4). -/
structure Params where
  csumLast : CsumLast
  /-- `AVAIL_W` is 6 and `availExtra` more: "integer ≥ 6" (R10) -/
  availExtra : Nat
  srcDepth : SrcDepth
  deriving DecidableEq, Repr, Inhabited

/-- `CSUM_LAST` as a payload offset (R9). -/
def CsumLast.offset : CsumLast → Nat
  | .at26 => 26
  | .at27 => 27

/-- `AVAIL_W`, the width of `src_avail` (R10). -/
def Params.availW (p : Params) : Nat := 6 + p.availExtra

/-- `SRC_DEPTH` in bytes, none where it is unbounded (R10). -/
def Params.depth (p : Params) : Option Nat :=
  match p.srcDepth with
  | .unbounded => none
  | .bounded extra => some (32 + extra)

/-- The parameters of the state after reset: `CSUM_LAST` the normative 26; `AVAIL_W` 6 and `SRC_DEPTH` unbounded, which the
spec leaves open (DESIGN CHOICE, log entry 4). -/
def Params.base : Params where
  csumLast := .at26
  availExtra := 0
  srcDepth := .unbounded

/-- Free: what the agents choose in cycle `n` when the state holds no schedule for it (R53, R60: "free input"). -/
opaque Config.freeInput : Nat → CycleInput

/-- Free: what byte `i` of the frame buffer holds from power-up until it is first written (R39, I6: unspecified). -/
opaque Config.powerUpByte : Nat → Byte

/-- Free: the bytes that enter a full queue in cycle `n`, with room for `room`, when more are appended: "what the producer does
when `Q` is full is outside the core" (D24, I12). -/
opaque Config.overflow (n room : Nat) (appended : List Byte) : List Byte

/-- Free: the data outputs of the reader port in cycle `n` while `fsm` is not EMIT (R34, I1: "any value"). -/
opaque Config.freePortData : Nat → Reading

end Sys2Proof
end

