-- ==== Sys2Proof/Machine/State.lean ====
section
/-! DEFINITION. The state of the frame core (spec/10_state.md R20 to R26), of the external agents it is composed with
(spec/20_memory.md R50, R60, R67), the state right after reset (R39), and the ways a step can stop. -/

namespace Sys2Proof.Machine

/-- The frame buffer `buf` as the bytes written so far, by payload offset, offsets strictly rising (R24). An offset that is
not listed has not been written since power-up: "an unwritten byte is `none`" (R42). -/
abbrev Memory := List Host.Cell

/-- The machine: the frame core's own registers first, then the two agents whose behaviour the spec fixes (the byte
source's queue, the reader that takes Readings), the schedule of the free inputs, and the parameters of the instance. -/
structure State where
  /-- `fsm`, the controller state (R21) -/
  fsm : Fsm
  /-- `idx`, the 5-bit payload index (R23) -/
  idx : BitVec 5
  /-- `buf`, the frame buffer of 30 bytes (R24) -/
  buf : Memory
  /-- `fault_code` (R25) -/
  faultCode : FaultCode
  /-- `Q`, the bytes the byte source holds, oldest first (R50) -/
  queue : List Byte
  /-- the bytes popped so far, oldest first; its length is `popped` of R96 (the model's record, log entry 6) -/
  delivered : List Byte
  /-- the Readings handed to the reader so far, oldest first (R31, R153; the model's record, log entry 6) -/
  taken : List Reading
  /-- what the agents choose in this cycle and the cycles after it, as far as it is scheduled (R60; log entry 5) -/
  script : List CycleInput
  /-- the number of this cycle; it names the free inputs of the cycles that are not scheduled (log entry 5) -/
  cycle : Nat
  /-- the instance's `CSUM_LAST`, `AVAIL_W` and `SRC_DEPTH` (R9, R10); configuration, written by no operation (log entry 4) -/
  params : Params
  deriving DecidableEq, Repr

/-- Stops with a fault. No step of the machine ends in one: the frame core's own faults (TransportError, INTERNAL) are
next states in FAULT (R182, R183, R186). -/
inductive Fault where
  /-- A checked decoder function (`checkedReading`, Flags.lean) met a byte of `buf` that nothing has written ("A decoder
  function that meets `none` in `buf` faults", R42). Safe: the reader port itself shows a free value there. -/
  | unwrittenByte (offset : Nat)
  deriving DecidableEq, Repr

/-- Stops because there is no meaning. `step` itself answers none of them: the decode table is total (R88), and it selects
a popping operation only with that operation's byte at the head of the queue (R29). -/
inductive Refusal where
  /-- Raised by an arm of `exec` without a meaning; there is none. Safe. -/
  | notModelled (mnemonic : String)
  /-- Raised by `step` if no row matched the decode key; R88 says every key matches one. Safe. -/
  | noOperation
  /-- Raised by a popping operation performed with an empty queue: a byte source that over-reports breaks its duty, and
  "the spec gives that run no meaning" (R220, I8). Safe. -/
  | popFromEmpty
  /-- Raised by a popping operation whose `src_data` is not the head of the queue: the byte source's duty is broken (R60,
  I8). Safe. -/
  | dataNotHead
  deriving DecidableEq, Repr

/-- The state after a reset cycle (R39), with a buffer nothing has been written to, an empty byte source, no Reading taken
nothing scheduled, and the parameters `Params.base`. -/
def State.reset : State where
  fsm := .idle
  idx := 0
  buf := []
  faultCode := .none
  queue := []
  delivered := []
  taken := []
  script := []
  cycle := 0
  params := .base

end Sys2Proof.Machine
end

