-- ==== Sys2Proof/Machine/Ops.lean ====
section
/-! DEFINITION. The primitives of spec/00_scope.md R12 to R14 as named operations: reading and writing `buf`, writing a
register, popping the byte source, taking a fault and leaving it by reset, handing a Reading over, and the clock edge. -/

namespace Sys2Proof.Machine

/-- What has been written to payload offset `a`, if anything (R42). -/
def Memory.read : Memory → Nat → Option Byte
  | [], _ => none
  | (x, b) :: rest, a => if x = a then some b else Memory.read rest a

/-- The cells with offset `a` holding `b`, offsets kept rising. -/
def Memory.insert : Memory → Nat → Byte → Memory
  | [], a, b => [(a, b)]
  | (x, c) :: rest, a, b =>
    if a < x then (a, b) :: (x, c) :: rest
    else if a = x then (a, b) :: rest
    else (x, c) :: Memory.insert rest a b

/-- `buf[a] <- b` (R12). A write at an offset of 30 or more "falls outside `buf` and has no effect" (R23). -/
def Memory.write (m : Memory) (a : Nat) (b : Byte) : Memory :=
  if a < Config.payloadLen then m.insert a b else m

/-- The one canonical form of `buf`: offsets strictly rising, each 0 to 29. -/
abbrev Memory.wf (m : Memory) : Prop :=
  m.Pairwise (fun c d => c.1 < d.1) ∧ ∀ c ∈ m, c.1 < Config.payloadLen

/-- What `buf[i]` shows: the byte last written there, or the unspecified byte it has held since power-up (R39, I6: a free
value). -/
def bufByte (m : Memory) (i : Nat) : Byte := (m.read i).getD (Config.powerUpByte i)

/-- `fsm <- f` (R12). -/
def State.setFsm (s : State) (f : Fsm) : State := { s with fsm := f }

/-- `idx <- v` (R12). -/
def State.setIdx (s : State) (v : BitVec 5) : State := { s with idx := v }

/-- `buf[a] <- b` (R12). -/
def State.storeByte (s : State) (a : Nat) (b : Byte) : State := { s with buf := s.buf.write a b }

/-- TAKING A FAULT: the code is recorded and `fsm` becomes FAULT; nothing else is saved or changed (R14, R185). -/
def State.raise (s : State) (c : FaultCode) : State := { s with faultCode := c, fsm := .fault }

/-- THE WAY OUT OF A FAULT, and the whole effect of a reset cycle on the core: `fsm <- IDLE; idx <- 0; fault_code <- NONE`,
`buf` not written (R187, R210). -/
def State.resetCore (s : State) : State := { s with fsm := .idle, idx := 0, faultCode := .none }

/-- The reader takes a Reading (R31, R153). -/
def State.handOver (s : State) (r : Reading) : State := { s with taken := s.taken ++ [r] }

/-- The byte source has given its head `b` away and holds `rest` (R51). -/
def State.consume (s : State) (b : Byte) (rest : List Byte) : State :=
  { s with queue := rest, delivered := s.delivered ++ [b] }

/-- `SrcPop()` by an operation whose `src_data` is `b`, then the operation's register writes `k` (R13, R51). The byte
source's duty is that `b` is the head of its queue; where it is not, the spec gives the run no meaning (R220, I8). -/
def popByte (b : Byte) (k : State → State) (s : State) : Host.Outcome State Fault Refusal :=
  match s.queue with
  | [] => .refused .popFromEmpty
  | h :: rest => if h = b then .next (k (s.consume h rest)) else .refused .dataNotHead

/-- The bytes of `appended` that enter a queue of `held` bytes at the end of cycle `n`: all of them where the queue has room
for them (R52), else free bytes that fill the room at most (R10 `SRC_DEPTH`, I12; log entry 10). -/
def arriving (p : Params) (n held : Nat) (appended : List Byte) : List Byte :=
  match p.depth with
  | none => appended
  | some d =>
    if appended.length ≤ d - held then appended
    else (Config.overflow n (d - held) appended).take (d - held)

/-- The rising edge that ends a cycle with the agents' choices `c`: the arriving bytes join the queue behind what is left
of it (R52, R67), and the schedule moves on. -/
def State.endCycle (s : State) (c : CycleInput) : State :=
  { s with
    queue := s.queue ++ arriving s.params s.cycle s.queue.length c.appended
    script := s.script.tail
    cycle := s.cycle + 1 }

end Sys2Proof.Machine
end

