-- ==== Sys2Proof/Machine/Faults.lean ====
section
/-! DEFINITION. The fault operations of spec/60_exceptions.md and the reset operation of spec/70_reset_and_hazards.md. -/

namespace Sys2Proof.Machine

/-- ERR_IDLE (R182): take a TransportError before an attempt starts. -/
def execErrIdle (s : State) : Host.Outcome State Fault Refusal := .next (s.raise .transport)

/-- ERR_BUSY (R183): take a TransportError during an attempt, in whichever state it was; no byte is popped. -/
def execErrBusy (_held : BusyFsm) (s : State) : Host.Outcome State Fault Refusal := .next (s.raise .transport)

/-- FAULT_HOLD (R184): no assignment. -/
def execFaultHold (s : State) : Host.Outcome State Fault Refusal := .next s

/-- RSV_STATE (R186): leave a reserved encoding with the INTERNAL fault. -/
def execRsvState (_held : RsvFsm) (s : State) : Host.Outcome State Fault Refusal := .next (s.raise .internal)

/-- RST (R210): the synchronous reset, from any state; `buf` and the byte source keep what they hold. DESIGN CHOICE (log entry
17): in EMIT with `rd_ready = 1` the words of R31 would transfer the Reading in this cycle; here the reset drops it, as R212
says of a reset in EMIT, and `taken` records no hand-over. -/
def execRst (s : State) : Host.Outcome State Fault Refusal := .next s.resetCore

end Sys2Proof.Machine
end

