-- ==== Sys2Proof/WellFormed.lean ====
section
/-! DEFINITION. Which operand values an operation can be selected with: the conditions of the rows of spec/30_encoding.md
R87 that its constructor does not already fix. -/

namespace Sys2Proof

/-- IDLE_WAIT is neither ERR_IDLE nor IDLE_GATE; HUNT_DISCARD drops no first marker byte; M2_BREAK drops no marker byte
(R110, R114, R118). -/
def Instr.wf : Instr → Bool
  | .rst => true
  | .faultHold => true
  | .emitAccept => true
  | .emitHold => true
  | .rsvState _ => true
  | .errIdle => true
  | .idleGate => true
  | .idleWait run err ge32 => !(run && (err || ge32))
  | .errBusy _ => true
  | .huntStall => true
  | .huntHit => true
  | .huntDiscard data => data != Config.marker0
  | .m2Stall => true
  | .m2Lock => true
  | .m2Rehit => true
  | .m2Break data => data != Config.marker1 && data != Config.marker0
  | .plStall => true
  | .plLast _ => true
  | .plCapture _ => true

end Sys2Proof
end

