-- ==== Sys2Proof/Decode.lean ====
section
/-! DEFINITION. The register encodings (spec/10_state.md R21, R25), the decode key's layout (spec/30_encoding.md R86), the
ordered decode table (R87), the decoder and the encoder. -/

namespace Sys2Proof

/-- The 3-bit encoding of `fsm` (R21, R22). -/
def Fsm.code : Fsm → BitVec 3
  | .idle => 0b000
  | .hunt => 0b001
  | .got42 => 0b010
  | .payload => 0b011
  | .emit => 0b100
  | .rsv101 => 0b101
  | .rsv110 => 0b110
  | .fault => 0b111

/-- The controller state a 3-bit encoding stands for. -/
def Fsm.ofCode (c : BitVec 3) : Fsm :=
  match c.toNat with
  | 0 => .idle
  | 1 => .hunt
  | 2 => .got42
  | 3 => .payload
  | 4 => .emit
  | 5 => .rsv101
  | 6 => .rsv110
  | _ => .fault

/-- The 2-bit encoding of `fault_code` (R25). -/
def FaultCode.code : FaultCode → BitVec 2
  | .none => 0b00
  | .transport => 0b01
  | .internal => 0b10
  | .rsv11 => 0b11

/-- The controller state of a busy state. -/
def BusyFsm.fsm : BusyFsm → Fsm
  | .hunt => .hunt
  | .got42 => .got42
  | .payload => .payload

/-- The controller state of a reserved encoding. -/
def RsvFsm.fsm : RsvFsm → Fsm
  | .rsv101 => .rsv101
  | .rsv110 => .rsv110

/-- The decode key with the given fields, most significant first (R86). -/
def mkKey (rst err run ge32 nz rdy : Bool) (fsm : Fsm) (last : Bool) (data : Byte) : Key :=
  BitVec.ofBool rst ++ BitVec.ofBool err ++ BitVec.ofBool run ++ BitVec.ofBool ge32 ++ BitVec.ofBool nz ++
    BitVec.ofBool rdy ++ fsm.code ++ BitVec.ofBool last ++ data

/-- Bit 17 of the key (R86). -/
def Key.rst (K : Key) : Bool := K.getLsbD 17
/-- Bit 16 of the key. -/
def Key.err (K : Key) : Bool := K.getLsbD 16
/-- Bit 15 of the key. -/
def Key.run (K : Key) : Bool := K.getLsbD 15
/-- Bit 14 of the key. -/
def Key.ge32 (K : Key) : Bool := K.getLsbD 14
/-- Bit 13 of the key. -/
def Key.nz (K : Key) : Bool := K.getLsbD 13
/-- Bit 12 of the key. -/
def Key.rdy (K : Key) : Bool := K.getLsbD 12
/-- Bits 11:9 of the key. -/
def Key.fsm (K : Key) : Fsm := Fsm.ofCode (K.extractLsb' 9 3)
/-- Bit 8 of the key. -/
def Key.last (K : Key) : Bool := K.getLsbD 8
/-- Bits 7:0 of the key. -/
def Key.data (K : Key) : Byte := K.extractLsb' 0 8

/-- One row of the decode table: match, mask, whether the row "uses order", and the operation built from the key's
operand fields (none where a field has no operation in this row: such a key belongs to an earlier row). -/
structure Row where
  pattern : Key
  mask : Key
  usesOrder : Bool
  build : Key → Option Instr

/-- The row's condition `(K & mask) == match` (R87). -/
def Row.hit (r : Row) (K : Key) : Bool := (K &&& r.mask) == r.pattern

/-- ERR_BUSY with the busy state of the key (row 9). -/
def buildErrBusy (K : Key) : Option Instr :=
  match K.fsm with
  | .hunt => some (.errBusy .hunt)
  | .got42 => some (.errBusy .got42)
  | .payload => some (.errBusy .payload)
  | _ => none

/-- RSV_STATE with the reserved encoding of the key (row 5). -/
def buildRsvState (K : Key) : Option Instr :=
  match K.fsm with
  | .rsv101 => some (.rsvState .rsv101)
  | .rsv110 => some (.rsvState .rsv110)
  | _ => none

/-- Row 1 of R87. -/
def rowRst : Row := { pattern := 0x20000, mask := 0x20000, usesOrder := false, build := fun _ => some .rst }
/-- Row 2 of R87. -/
def rowFaultHold : Row := { pattern := 0x00E00, mask := 0x20E00, usesOrder := false, build := fun _ => some .faultHold }
/-- Row 3 of R87. -/
def rowEmitAccept : Row := { pattern := 0x01800, mask := 0x21E00, usesOrder := false, build := fun _ => some .emitAccept }
/-- Row 4 of R87. -/
def rowEmitHold : Row := { pattern := 0x00800, mask := 0x21E00, usesOrder := false, build := fun _ => some .emitHold }
/-- Row 5 of R87. -/
def rowRsvState : Row := { pattern := 0x00800, mask := 0x20800, usesOrder := true, build := buildRsvState }
/-- Row 6 of R87. -/
def rowErrIdle : Row := { pattern := 0x18000, mask := 0x38E00, usesOrder := false, build := fun _ => some .errIdle }
/-- Row 7 of R87. -/
def rowIdleGate : Row := { pattern := 0x0C000, mask := 0x3CE00, usesOrder := false, build := fun _ => some .idleGate }
/-- Row 8 of R87. -/
def rowIdleWait : Row :=
  { pattern := 0x00000, mask := 0x20E00, usesOrder := true, build := fun K => some (.idleWait K.run K.err K.ge32) }
/-- Row 9 of R87. -/
def rowErrBusy : Row := { pattern := 0x10000, mask := 0x30800, usesOrder := true, build := buildErrBusy }
/-- Row 10 of R87. -/
def rowHuntStall : Row := { pattern := 0x00200, mask := 0x32E00, usesOrder := false, build := fun _ => some .huntStall }
/-- Row 11 of R87. -/
def rowHuntHit : Row := { pattern := 0x02242, mask := 0x32EFF, usesOrder := false, build := fun _ => some .huntHit }
/-- Row 12 of R87. -/
def rowHuntDiscard : Row :=
  { pattern := 0x02200, mask := 0x32E00, usesOrder := true, build := fun K => some (.huntDiscard K.data) }
/-- Row 13 of R87. -/
def rowM2Stall : Row := { pattern := 0x00400, mask := 0x32E00, usesOrder := false, build := fun _ => some .m2Stall }
/-- Row 14 of R87. -/
def rowM2Lock : Row := { pattern := 0x0244D, mask := 0x32EFF, usesOrder := false, build := fun _ => some .m2Lock }
/-- Row 15 of R87. -/
def rowM2Rehit : Row := { pattern := 0x02442, mask := 0x32EFF, usesOrder := false, build := fun _ => some .m2Rehit }
/-- Row 16 of R87. -/
def rowM2Break : Row :=
  { pattern := 0x02400, mask := 0x32E00, usesOrder := true, build := fun K => some (.m2Break K.data) }
/-- Row 17 of R87. -/
def rowPlStall : Row := { pattern := 0x00600, mask := 0x32E00, usesOrder := false, build := fun _ => some .plStall }
/-- Row 18 of R87. -/
def rowPlLast : Row :=
  { pattern := 0x02700, mask := 0x32F00, usesOrder := false, build := fun K => some (.plLast K.data) }
/-- Row 19 of R87. -/
def rowPlCapture : Row :=
  { pattern := 0x02600, mask := 0x32F00, usesOrder := false, build := fun K => some (.plCapture K.data) }

/-- The decode table in priority order (R87). -/
def decodeRows : List Row :=
  [rowRst, rowFaultHold, rowEmitAccept, rowEmitHold, rowRsvState, rowErrIdle, rowIdleGate, rowIdleWait, rowErrBusy,
    rowHuntStall, rowHuntHit, rowHuntDiscard, rowM2Stall, rowM2Lock, rowM2Rehit, rowM2Break, rowPlStall, rowPlLast,
    rowPlCapture]

/-- The table row an operation stands for. -/
def Instr.row : Instr → Row
  | .rst => rowRst
  | .faultHold => rowFaultHold
  | .emitAccept => rowEmitAccept
  | .emitHold => rowEmitHold
  | .rsvState _ => rowRsvState
  | .errIdle => rowErrIdle
  | .idleGate => rowIdleGate
  | .idleWait _ _ _ => rowIdleWait
  | .errBusy _ => rowErrBusy
  | .huntStall => rowHuntStall
  | .huntHit => rowHuntHit
  | .huntDiscard _ => rowHuntDiscard
  | .m2Stall => rowM2Stall
  | .m2Lock => rowM2Lock
  | .m2Rehit => rowM2Rehit
  | .m2Break _ => rowM2Break
  | .plStall => rowPlStall
  | .plLast _ => rowPlLast
  | .plCapture _ => rowPlCapture

/-- The operation of the first row the key matches (R87). By R88 no 18-bit key is without one. -/
def decodeKey (K : Key) : Option Instr := (decodeRows.find? (fun r => r.hit K)).bind (fun r => r.build K)

/-- Why bytes are no decode key. -/
inductive DecodeError where
  /-- fewer than the three bytes that hold 18 bits -/
  | truncated
  /-- a bit above bit 17 is set: the key has 18 bits (R86) -/
  | bitsAboveKey
  /-- no row of the table matches; R88 says there is no such key -/
  | noRow
  deriving DecidableEq, Repr

/-- The number a list of bytes holds, the least significant byte first (the numbering of spec/opcode_table.json). -/
def bytesToNat : List Byte → Nat
  | [] => 0
  | b :: bs => b.toNat + 256 * bytesToNat bs

/-- The `n` low bytes of a number, the least significant first. -/
def natToBytes : Nat → Nat → List Byte
  | 0, _ => []
  | n + 1, w => BitVec.ofNat 8 w :: natToBytes n (w / 256)

/-- The decoder on bytes, total and rejecting by name. -/
def decodeBytes (bs : List Byte) : Except DecodeError Instr :=
  if bs.length < 3 then .error .truncated
  else if 2 ^ 18 ≤ bytesToNat bs then .error .bitsAboveKey
  else
    match decodeKey (BitVec.ofNat 18 (bytesToNat bs)) with
    | some i => .ok i
    | none => .error .noRow

/-- The operation the decoder reads from a table word of `nbits` bits, every bit above them 0. -/
def decodeTableWord (nbits w : Nat) : Option Instr :=
  match decodeBytes (natToBytes (max 3 ((nbits + 7) / 8)) (w % 2 ^ nbits)) with
  | .ok i => some i
  | .error _ => none

/-- The key of an operation with its operands: its row's fixed fields, its operands, and 0 in every field the rule leaves
open (as spec/95_test_vectors.md section 3 writes keys), with `nz` set where `ge32` is (R86). -/
def encode : Instr → Key
  | .rst => mkKey true false false false false false .idle false 0
  | .faultHold => mkKey false false false false false false .fault false 0
  | .emitAccept => mkKey false false false false false true .emit false 0
  | .emitHold => mkKey false false false false false false .emit false 0
  | .rsvState a => mkKey false false false false false false a.fsm false 0
  | .errIdle => mkKey false true true false false false .idle false 0
  | .idleGate => mkKey false false true true true false .idle false 0
  | .idleWait run err ge32 => mkKey false err run ge32 ge32 false .idle false 0
  | .errBusy a => mkKey false true false false false false a.fsm false 0
  | .huntStall => mkKey false false false false false false .hunt false 0
  | .huntHit => mkKey false false false false true false .hunt false Config.marker0
  | .huntDiscard data => mkKey false false false false true false .hunt false data
  | .m2Stall => mkKey false false false false false false .got42 false 0
  | .m2Lock => mkKey false false false false true false .got42 false Config.marker1
  | .m2Rehit => mkKey false false false false true false .got42 false Config.marker0
  | .m2Break data => mkKey false false false false true false .got42 false data
  | .plStall => mkKey false false false false false false .payload false 0
  | .plLast data => mkKey false false false false true false .payload true data
  | .plCapture data => mkKey false false false false true false .payload false data

/-- The three bytes of an operation's key, the least significant first. -/
def encodeBytes (i : Instr) : List Byte := natToBytes 3 (encode i).toNat

end Sys2Proof
end

