-- ==== Sys2Proof/Machine/Operands.lean ====
section
/-! DEFINITION. What an operation reads: the input ports of a cycle (spec/10_state.md R27 to R31), the decode key formed from
them and the registers (spec/30_encoding.md R86), and the operation it selects (R87). -/

namespace Sys2Proof.Machine

/-- The agents' choices in this cycle: the next scheduled ones, or free ones (R53, R60). -/
def pins (s : State) : CycleInput :=
  match s.script with
  | c :: _ => c
  | [] => Config.freeInput s.cycle

/-- The bytes the byte source counts in this cycle: those it holds but for what it leaves out (R60, R220; log entry 15). -/
def reported (s : State) : Nat := s.queue.length - (pins s).withheld

/-- `src_avail`: the count on a port of `AVAIL_W` bits, saturated (R28, R50). -/
def srcAvail (s : State) : Nat := min (reported s) (2 ^ s.params.availW - 1)

/-- `src_data`: the head of the queue; any byte while `src_avail` is 0 (R28, R50, R67, I2). -/
def srcData (s : State) : Byte :=
  match s.queue with
  | h :: _ => if srcAvail s = 0 then (pins s).emptyData else h
  | [] => (pins s).emptyData

/-- The decode key of this cycle (R86). -/
def decodeKeyOf (s : State) : Key :=
  mkKey (pins s).rst (pins s).srcErr (pins s).run (decide (Config.gateMin ≤ srcAvail s)) (decide (srcAvail s ≠ 0))
    (pins s).rdReady s.fsm (s.idx == 29) (srcData s)

/-- The operation this cycle performs (R87). -/
def selectOp (s : State) : Option Instr := decodeKey (decodeKeyOf s)

/-- The end of the cycle after an operation's outcome: the clock edge, or the stop. -/
def finishCycle (s : State) : Host.Outcome State Fault Refusal → Host.Outcome State Fault Refusal
  | .next t => .next (t.endCycle (pins s))
  | .fault r => .fault r
  | .refused r => .refused r

/-- The queue that shows a key's `ge32`, `nz` and `data`. With `ge32` and not `nz`, which no queue shows (R86), the bit
that the key's state examines wins: `ge32` in IDLE, `nz` elsewhere. -/
def queueForKey (K : Key) : List Byte :=
  if K.ge32 && (K.nz || K.fsm == .idle) then K.data :: List.replicate 31 0
  else if K.nz then [K.data]
  else []

/-- The state in which the ports and registers show the key `K` in this cycle: what `step` forms its next decode key from.
-/
def placeKey (s : State) (K : Key) : State :=
  { s with
    fsm := K.fsm
    idx := if K.last then 29 else if s.idx = 29 then 0 else s.idx
    queue := queueForKey K
    script :=
      { rst := K.rst
        run := K.run
        srcErr := K.err
        rdReady := K.rdy
        withheld := 0
        emptyData := K.data
        appended := [] } :: s.script }

end Sys2Proof.Machine
end

