-- ==== Sys2Proof/Machine/Flags.lean ====
section
/-! DEFINITION. The decoder functions of spec/41_decoder.md (lanes, checksum-16, validity flag, the Reading) and the output
ports of spec/10_state.md R29, R31 to R35. They read and write no state but what they are given (R150). -/

namespace Sys2Proof.Machine

/-- `Lane(buf, k) = {buf[2k], buf[2k+1]}`, the lower offset the more significant (R140, R55). -/
def lane (buf : Nat → Byte) (k : Nat) : Word16 := buf (2 * k) ++ buf (2 * k + 1)

/-- The exact sum of bytes 0 to `n - 1`. -/
def sumBytes (buf : Nat → Byte) : Nat → Nat
  | 0 => 0
  | n + 1 => sumBytes buf n + (buf n).toNat

/-- The checksum before reduction: `0xFF` and the bytes at offsets 0 to `last` (R142). -/
def csumExact (last : Nat) (buf : Nat → Byte) : Nat := Config.markerSum + sumBytes buf (last + 1)

/-- `CsumCalc(buf)` for a `CSUM_LAST` of `last`, reduced mod 2^16 (R142). -/
def csumCalc (last : Nat) (buf : Nat → Byte) : Word16 := BitVec.ofNat 16 (csumExact last buf)

/-- `CsumOk(buf)` for a `CSUM_LAST` of `last`, the validity flag (R143). -/
def csumOk (last : Nat) (buf : Nat → Byte) : Bool := csumCalc last buf == lane buf 14

/-- The Reading of thirty payload bytes for a `CSUM_LAST` of `last`: every data output of the reader port (R34, R150). -/
def readingFrom (last : Nat) (buf : Nat → Byte) : Reading where
  lane0 := lane buf 0
  lane1 := lane buf 1
  lane2 := lane buf 2
  lane3 := lane buf 3
  lane4 := lane buf 4
  lane5 := lane buf 5
  lane6 := lane buf 6
  lane7 := lane buf 7
  lane8 := lane buf 8
  lane9 := lane buf 9
  lane10 := lane buf 10
  lane11 := lane buf 11
  lane12 := lane buf 12
  lane13 := lane buf 13
  lane14 := lane buf 14
  version := buf 26
  errorCode := buf 27
  csumDecl := lane buf 14
  csumCalc := csumCalc last buf
  csumOk := csumOk last buf

/-- The Reading on offer: the decoder functions of the frame buffer (R34). -/
def readingOf (last : Nat) (m : Memory) : Reading := readingFrom last (bufByte m)

/-- The instance's `CSUM_LAST` (R9). -/
def State.csumLast (s : State) : Nat := s.params.csumLast.offset

/-- The first payload offset that nothing has written. -/
def firstUnwritten (m : Memory) : Option Nat :=
  (List.range Config.payloadLen).find? (fun i => (m.read i).isNone)

/-- The decoder functions as R42 advises a model to check them: a fault where they meet an unwritten byte. That no step calls
them, and that the fault names the first such offset, is the model's choice (log entry 2). -/
def checkedReading (last : Nat) (m : Memory) : Except Fault Reading :=
  match firstUnwritten m with
  | some i => .error (.unwrittenByte i)
  | none => .ok (readingOf last m)

/-- Lane `k` of a Reading, 0 to 14, as the port `rd_lane<k>` (R31, R37). -/
def laneOf (r : Reading) : Nat → Word16
  | 0 => r.lane0
  | 1 => r.lane1
  | 2 => r.lane2
  | 3 => r.lane3
  | 4 => r.lane4
  | 5 => r.lane5
  | 6 => r.lane6
  | 7 => r.lane7
  | 8 => r.lane8
  | 9 => r.lane9
  | 10 => r.lane10
  | 11 => r.lane11
  | 12 => r.lane12
  | 13 => r.lane13
  | _ => r.lane14

/-- `frame_length` (R81, R147); data only (R151). -/
def frameLength (r : Reading) : Word16 := r.lane0
/-- `pm1_0_standard` (R147). -/
def pm1_0Standard (r : Reading) : Word16 := r.lane1
/-- `pm2_5_standard` (R147). -/
def pm2_5Standard (r : Reading) : Word16 := r.lane2
/-- `pm10_standard` (R147). -/
def pm10Standard (r : Reading) : Word16 := r.lane3
/-- `pm1_0_atmospheric` (R147). -/
def pm1_0Atmospheric (r : Reading) : Word16 := r.lane4
/-- `pm2_5_atmospheric` (R147). -/
def pm2_5Atmospheric (r : Reading) : Word16 := r.lane5
/-- `pm10_atmospheric` (R147). -/
def pm10Atmospheric (r : Reading) : Word16 := r.lane6
/-- `count_gt_0_3um` (R147). -/
def countGt0_3um (r : Reading) : Word16 := r.lane7
/-- `count_gt_0_5um` (R147). -/
def countGt0_5um (r : Reading) : Word16 := r.lane8
/-- `count_gt_1_0um` (R147). -/
def countGt1_0um (r : Reading) : Word16 := r.lane9
/-- `count_gt_2_5um` (R147). -/
def countGt2_5um (r : Reading) : Word16 := r.lane10
/-- `count_gt_5_0um` (R147). -/
def countGt5_0um (r : Reading) : Word16 := r.lane11
/-- `count_gt_10_0um` (R147). -/
def countGt10_0um (r : Reading) : Word16 := r.lane12
/-- `checksum_declared` (R147). -/
def checksumDeclared (r : Reading) : Word16 := r.csumDecl
/-- `checksum_computed` (R147). -/
def checksumComputed (r : Reading) : Word16 := r.csumCalc

/-- `rd_valid` (R33). -/
def rdValid (s : State) : Bool := s.fsm == .emit

/-- `busy` (R33). -/
def busy (s : State) : Bool := s.fsm == .hunt || s.fsm == .got42 || s.fsm == .payload || s.fsm == .emit

/-- `st_state[2:0]` (R33). -/
def stState (s : State) : BitVec 3 := s.fsm.code

/-- `st_fault[1:0]` (R33). -/
def stFault (s : State) : BitVec 2 := s.faultCode.code

/-- The data outputs of the reader port: the Reading of `buf` in EMIT, any value elsewhere (R34, I1). -/
def rdData (s : State) : Reading := if s.fsm = .emit then readingOf s.csumLast s.buf else Config.freePortData s.cycle

/-- The operations that call `SrcPop()` (spec/40_synchronizer.md). -/
def pops : Instr → Bool
  | .rst => false
  | .faultHold => false
  | .emitAccept => false
  | .emitHold => false
  | .rsvState _ => false
  | .errIdle => false
  | .idleGate => false
  | .idleWait _ _ _ => false
  | .errBusy _ => false
  | .huntStall => false
  | .huntHit => true
  | .huntDiscard _ => true
  | .m2Stall => false
  | .m2Lock => true
  | .m2Rehit => true
  | .m2Break _ => true
  | .plStall => false
  | .plLast _ => true
  | .plCapture _ => true

/-- `src_pop`: 1 in a cycle whose operation calls `SrcPop()` (R29). -/
def srcPop (s : State) : Bool :=
  match selectOp s with
  | some i => pops i
  | none => false

end Sys2Proof.Machine
end

