-- ==== Sys2Proof/Machine/Handover.lean ====
section
/-! DEFINITION. The two operations of state EMIT (spec/41_decoder.md R152, R153). -/

namespace Sys2Proof.Machine

/-- EMIT_HOLD (R152): no assignment; the Reading stays on offer. -/
def execEmitHold (s : State) : Host.Outcome State Fault Refusal := .next s

/-- EMIT_ACCEPT (R153): the reader takes the Reading of `buf`, `fsm <- IDLE`. -/
def execEmitAccept (s : State) : Host.Outcome State Fault Refusal :=
  .next ((s.handOver (readingOf s.csumLast s.buf)).setFsm .idle)

end Sys2Proof.Machine
end

