-- ==== Sys2Proof/Machine/Synchronizer.lean ====
section
/-! DEFINITION. The twelve synchronizer operations of spec/40_synchronizer.md: the gate, the marker search, the capture of
the payload. A register an operation does not assign keeps its value (spec/00_scope.md R12). -/

namespace Sys2Proof.Machine

/-- IDLE_WAIT (R110): no assignment, whatever kept the gate closed. -/
def execIdleWait (_run _err _ge32 : Bool) (s : State) : Host.Outcome State Fault Refusal := .next s

/-- IDLE_GATE (R111): `fsm <- HUNT`; the gate cycle pops no byte. -/
def execIdleGate (s : State) : Host.Outcome State Fault Refusal := .next (s.setFsm .hunt)

/-- HUNT_STALL (R113): no assignment. -/
def execHuntStall (s : State) : Host.Outcome State Fault Refusal := .next s

/-- HUNT_DISCARD (R114): pop and drop. -/
def execHuntDiscard (data : Byte) (s : State) : Host.Outcome State Fault Refusal := popByte data id s

/-- HUNT_HIT (R115): pop the `0x42`, `fsm <- GOT42`. -/
def execHuntHit (s : State) : Host.Outcome State Fault Refusal := popByte Config.marker0 (·.setFsm .got42) s

/-- M2_STALL (R116): no assignment; the half-marker is kept. -/
def execM2Stall (s : State) : Host.Outcome State Fault Refusal := .next s

/-- M2_LOCK (R117): pop the `0x4D`, `idx <- 0; fsm <- PAYLOAD`. -/
def execM2Lock (s : State) : Host.Outcome State Fault Refusal :=
  popByte Config.marker1 (fun t => (t.setIdx 0).setFsm .payload) s

/-- M2_BREAK (R118): pop and drop, `fsm <- HUNT`. -/
def execM2Break (data : Byte) (s : State) : Host.Outcome State Fault Refusal := popByte data (·.setFsm .hunt) s

/-- M2_REHIT (R119): pop the `0x42`; `fsm` stays GOT42. -/
def execM2Rehit (s : State) : Host.Outcome State Fault Refusal := popByte Config.marker0 id s

/-- PL_STALL (R120): no assignment. -/
def execPlStall (s : State) : Host.Outcome State Fault Refusal := .next s

/-- PL_CAPTURE (R122): pop, `buf[idx] <- b; idx <- idx + 1` in 5 bits; with `idx` 30 or 31 the write has no effect and
`idx` wraps (R23). -/
def execPlCapture (data : Byte) (s : State) : Host.Outcome State Fault Refusal :=
  popByte data (fun t => (t.storeByte t.idx.toNat data).setIdx (t.idx + 1)) s

/-- PL_LAST (R123): pop, `buf[29] <- b; fsm <- EMIT`; `idx` stays. -/
def execPlLast (data : Byte) (s : State) : Host.Outcome State Fault Refusal :=
  popByte data (fun t => (t.storeByte 29 data).setFsm .emit) s

end Sys2Proof.Machine
end

