-- ==== Sys2Proof/Machine/Dispatch.lean ====
section
/-! DEFINITION. One arm per step operation of spec/opcode_table.json, in the table's order. -/

namespace Sys2Proof.Machine

def exec (i : Instr) (s : State) : Host.Outcome State Fault Refusal :=
  match i with
  | .rst => Sys2Proof.Machine.execRst s
  | .faultHold => Sys2Proof.Machine.execFaultHold s
  | .emitAccept => Sys2Proof.Machine.execEmitAccept s
  | .emitHold => Sys2Proof.Machine.execEmitHold s
  | .rsvState held => Sys2Proof.Machine.execRsvState held s
  | .errIdle => Sys2Proof.Machine.execErrIdle s
  | .idleGate => Sys2Proof.Machine.execIdleGate s
  | .idleWait run err ge32 => Sys2Proof.Machine.execIdleWait run err ge32 s
  | .errBusy held => Sys2Proof.Machine.execErrBusy held s
  | .huntStall => Sys2Proof.Machine.execHuntStall s
  | .huntHit => Sys2Proof.Machine.execHuntHit s
  | .huntDiscard data => Sys2Proof.Machine.execHuntDiscard data s
  | .m2Stall => Sys2Proof.Machine.execM2Stall s
  | .m2Lock => Sys2Proof.Machine.execM2Lock s
  | .m2Rehit => Sys2Proof.Machine.execM2Rehit s
  | .m2Break data => Sys2Proof.Machine.execM2Break data s
  | .plStall => Sys2Proof.Machine.execPlStall s
  | .plLast data => Sys2Proof.Machine.execPlLast data s
  | .plCapture data => Sys2Proof.Machine.execPlCapture data s

end Sys2Proof.Machine
end

