-- ==== Sys2Proof/Machine/Step.lean ====
section
/-! DEFINITION. One clock cycle: the decode key selects one operation, the operation is performed, the edge ends the cycle
(spec/00_scope.md R17, spec/20_memory.md R67). -/

namespace Sys2Proof.Machine

/-- `CoreStep` composed with the byte source and the reader (R67). -/
def step (s : State) : Host.Outcome State Fault Refusal :=
  match selectOp s with
  | some i => finishCycle s (exec i s)
  | none => .refused .noOperation

/-- The state whose next decode key is the table word `w`. -/
def State.withFetchWord (s : State) (nbits w : Nat) : State := placeKey s (BitVec.ofNat 18 (w % 2 ^ nbits))

end Sys2Proof.Machine
end

