-- ==== Sys2Proof/Safety.lean ====
section
/-! DEFINITION. What a safe run is, in the terms the statements use: the invariant of spec/10_state.md section 6, runs, cycles
without reset and transport error, and the reading of a byte stream that spec/40_synchronizer.md R124 gives. -/

namespace Sys2Proof.Machine

/-- `k` cycles. -/
def runFor (k : Nat) (s : State) : Host.Outcome State Fault Refusal := Host.Core.run Sys2Proof.core k s

/-- The first bytes of `buf` are the bytes of `l`. -/
def Holds (m : Memory) (l : List Byte) : Prop := ∀ i, i < l.length → m.read i = l[i]?

/-- The last bytes popped are the start marker and then `got`, and `got` is what the first bytes of `buf` hold. -/
def Captured (s : State) (got : List Byte) : Prop :=
  (∃ before, s.delivered = before ++ [Config.marker0, Config.marker1] ++ got) ∧ Holds s.buf got

/-- The invariant of every reachable state (R41, items 1 to 4), with the canonical form of `buf`. In GOT42 the byte popped
last is the `0x42` of the half-marker (R124). The queue holds no more than `SRC_DEPTH` bytes (R10). -/
structure Inv (s : State) : Prop where
  buf_wf : s.buf.wf
  fsm_legal : s.fsm ≠ .rsv101 ∧ s.fsm ≠ .rsv110
  fault_legal : s.faultCode ≠ .rsv11
  fault_iff : s.faultCode ≠ .none ↔ s.fsm = .fault
  in_got42 : s.fsm = .got42 → ∃ before, s.delivered = before ++ [Config.marker0]
  in_payload : s.fsm = .payload →
    s.idx.toNat ≤ 29 ∧ ∃ got, got.length = s.idx.toNat ∧ Captured s got
  in_emit : s.fsm = .emit → ∃ got, got.length = 30 ∧ Captured s got
  in_depth : ∀ d, s.params.depth = some d → s.queue.length ≤ d

/-- A cycle with `rst = 0` and `src_err = 0`. -/
def Quiet (c : CycleInput) : Prop := c.rst = false ∧ c.srcErr = false

/-- The Readings handed over so far and the one on offer. -/
def offered (s : State) : List Reading := s.taken ++ (if s.fsm = .emit then [readingOf s.csumLast s.buf] else [])

/-- Where the reading of a byte stream stands. -/
inductive ScanPhase where
  /-- looking for `0x42` -/
  | hunt
  /-- the byte before was `0x42` -/
  | half
  /-- the payload bytes after the marker so far -/
  | payload (got : List Byte)
  deriving DecidableEq, Repr

/-- The reading of a byte stream: where it stands, and the payloads completed. -/
structure Scan where
  phase : ScanPhase
  frames : List (List Byte)
  deriving DecidableEq, Repr

/-- One more byte of the stream: the first adjacent `0x42, 0x4D` opens a frame, and the next 30 bytes are its payload,
whatever they are (R58, R124). -/
def scanByte (c : Scan) (b : Byte) : Scan :=
  match c.phase with
  | .hunt => { c with phase := if b = Config.marker0 then .half else .hunt }
  | .half => { c with phase := if b = Config.marker1 then .payload [] else if b = Config.marker0 then .half else .hunt }
  | .payload got =>
    if got.length + 1 < Config.payloadLen then { c with phase := .payload (got ++ [b]) }
    else { phase := .hunt, frames := c.frames ++ [got ++ [b]] }

/-- The frames of a byte stream, from its first byte. -/
def scan (stream : List Byte) : Scan := stream.foldl scanByte { phase := .hunt, frames := [] }

/-- The Reading of a payload given as a list of bytes, for a `CSUM_LAST` of `last`. -/
def readingOfPayload (last : Nat) (p : List Byte) : Reading := readingFrom last (fun i => p.getD i 0)

/-- The core stands where the reading of the bytes it has popped stands, and the Readings it has offered are those of the
frames completed. -/
def FollowsStream (s : State) : Prop :=
  offered s = (scan s.delivered).frames.map (readingOfPayload s.csumLast) ∧
  match s.fsm with
  | .idle => (scan s.delivered).phase = .hunt
  | .hunt => (scan s.delivered).phase = .hunt
  | .emit => (scan s.delivered).phase = .hunt
  | .got42 => (scan s.delivered).phase = .half
  | .payload => s.idx.toNat ≤ 29 ∧ ∃ got, (scan s.delivered).phase = .payload got ∧ got.length = s.idx.toNat ∧ Holds s.buf got
  | .rsv101 => False
  | .rsv110 => False
  | .fault => False

/-- No adjacent `0x42, 0x4D` among the bytes: the first marker after them is the next one written out (R124). -/
def NoMarkerIn (junk : List Byte) : Prop :=
  ∀ before after, junk ≠ before ++ [Config.marker0, Config.marker1] ++ after

/-- The bytes the producer appends in the cycles of a schedule, in order. -/
def appendedBytes (cs : List CycleInput) : List Byte := cs.flatMap (·.appended)

/-- The queue has room for every byte that a schedule appends, even if none is popped (R10 `SRC_DEPTH`). -/
def Fits (s : State) (cs : List CycleInput) : Prop :=
  ∀ d, s.params.depth = some d → s.queue.length + (appendedBytes cs).length ≤ d

end Sys2Proof.Machine
end

