-- ==== Sys2Proof/Certificates/Slice0/Obligations.lean ====
section
/-! DEFINITION. The statements for the provers, each a `def Obligations.<Name> : Prop`, and the few tables they are written
with. -/

namespace Sys2Proof.Machine

open Sys2Proof

/-- The byte the byte source shows in this cycle: its head, while it counts any byte (what it counts: log entry 15). -/
def shown (s : State) : Option Byte := if reported s = 0 then none else s.queue.head?

/-- The operation of a cycle, from the registers and ports, in the priority order of spec/60_exceptions.md R189 and with the
conditions of spec/30_encoding.md R87; what is available is what the byte source counts (log entry 15). -/
def operationOf (s : State) : Instr :=
  if (pins s).rst then .rst
  else
    match s.fsm with
    | .fault => .faultHold
    | .emit => if (pins s).rdReady then .emitAccept else .emitHold
    | .rsv101 => .rsvState .rsv101
    | .rsv110 => .rsvState .rsv110
    | .idle =>
      if (pins s).run && (pins s).srcErr then .errIdle
      else if (pins s).run && decide (32 ≤ reported s) then .idleGate
      else .idleWait (pins s).run (pins s).srcErr (decide (32 ≤ reported s))
    | .hunt =>
      if (pins s).srcErr then .errBusy .hunt
      else
        match shown s with
        | none => .huntStall
        | some b => if b = 0x42 then .huntHit else .huntDiscard b
    | .got42 =>
      if (pins s).srcErr then .errBusy .got42
      else
        match shown s with
        | none => .m2Stall
        | some b => if b = 0x4D then .m2Lock else if b = 0x42 then .m2Rehit else .m2Break b
    | .payload =>
      if (pins s).srcErr then .errBusy .payload
      else
        match shown s with
        | none => .plStall
        | some b => if s.idx = 29 then .plLast b else .plCapture b

/-- The byte on `src_data` that a popping operation is selected with. -/
def popData : Instr → Option Byte
  | .huntHit => some 0x42
  | .huntDiscard b => some b
  | .m2Lock => some 0x4D
  | .m2Rehit => some 0x42
  | .m2Break b => some b
  | .plLast b => some b
  | .plCapture b => some b
  | _ => none

/-- The payload offset an operation stores a byte at, computed as its meaning computes it. -/
def storedOffset (i : Instr) (s : State) : Option Nat :=
  match i with
  | .plCapture _ => some s.idx.toNat
  | .plLast _ => some 29
  | _ => none

/-- The states `fsm` may hold after a cycle without reset, by the state before it (spec/40_synchronizer.md,
spec/41_decoder.md section 4, spec/60_exceptions.md section 2). -/
def successors : Fsm → List Fsm
  | .idle => [.idle, .hunt, .fault]
  | .hunt => [.hunt, .got42, .fault]
  | .got42 => [.got42, .hunt, .payload, .fault]
  | .payload => [.payload, .emit, .fault]
  | .emit => [.emit, .idle]
  | .rsv101 => [.fault]
  | .rsv110 => [.fault]
  | .fault => [.fault]

/-- A payload as it comes over the wire: the marker and its 30 bytes (spec/30_encoding.md R80). -/
def wireFrame (p : List Byte) : List Byte := [Config.marker0, Config.marker1] ++ p

end Sys2Proof.Machine

open Sys2Proof Sys2Proof.Machine

/-! ## The decode key and the decode table -/

/-- Decode and encode agree, on keys and on bytes, with every operand at every value its row admits (R86, R87). -/
def Obligations.EncodeDecodeRoundTrip : Prop :=
  ∀ i : Instr, i.wf = true → decodeKey (encode i) = some i ∧ decodeBytes (encodeBytes i) = .ok i

/-- R88: every key matches a row; the operation decoded is that of the first row that matches; two rows that do not use
order never match the same key. -/
def Obligations.DecodeTableCompleteAndUnambiguous : Prop :=
  (∀ K : Key, ∃ r ∈ decodeRows, r.hit K = true) ∧
  (∀ K : Key, ∃ i earlier later, decodeKey K = some i ∧ decodeRows = earlier ++ i.row :: later ∧
    i.row.hit K = true ∧ ∀ r ∈ earlier, r.hit K = false) ∧
  (∀ K : Key, decodeRows.Pairwise fun r r' =>
    r.usesOrder = false → r'.usesOrder = false → ¬ (r.hit K = true ∧ r'.hit K = true))

/-- What the decoder reads from a key is well formed, its row's match and mask hold of the key, and its operands are the
key's fields (R87). -/
def Obligations.DecodedOperationFitsItsKey : Prop :=
  ∀ (K : Key) (i : Instr), decodeKey K = some i →
    i.wf = true ∧ K &&& i.row.mask = i.row.pattern ∧
    (∀ run err ge32, i = .idleWait run err ge32 → K.run = run ∧ K.err = err ∧ K.ge32 = ge32) ∧
    (∀ b, popData i = some b → K.data = b) ∧
    (∀ h, i = .errBusy h → K.fsm = h.fsm) ∧
    (∀ h, i = .rsvState h → K.fsm = h.fsm)

/-- The 18 bits of the decode key, as R86 lays them out. -/
def Obligations.DecodeKeyShowsStateAndPorts : Prop :=
  ∀ s : State,
    (decodeKeyOf s).getLsbD 17 = (pins s).rst ∧
    (decodeKeyOf s).getLsbD 16 = (pins s).srcErr ∧
    (decodeKeyOf s).getLsbD 15 = (pins s).run ∧
    (decodeKeyOf s).getLsbD 14 = decide (32 ≤ srcAvail s) ∧
    (decodeKeyOf s).getLsbD 13 = decide (srcAvail s ≠ 0) ∧
    (decodeKeyOf s).getLsbD 12 = (pins s).rdReady ∧
    (decodeKeyOf s).extractLsb' 9 3 = s.fsm.code ∧
    (decodeKeyOf s).getLsbD 8 = decide (s.idx = 29) ∧
    (decodeKeyOf s).extractLsb' 0 8 = srcData s ∧
    ((decodeKeyOf s).getLsbD 14 = true → (decodeKeyOf s).getLsbD 13 = true)

/-- Keys of spec/95_test_vectors.md section 3 decode to the operations listed there. -/
def Obligations.DecodeKeyVectors : Prop :=
  decodeKey 0x30E00 = some .rst ∧ decodeKey 0x0EE00 = some .faultHold ∧ decodeKey 0x01800 = some .emitAccept ∧
  decodeKey 0x10C00 = some (.rsvState .rsv110) ∧ decodeKey 0x0E042 = some .idleGate ∧
  decodeKey 0x16000 = some (.idleWait false true true) ∧ decodeKey 0x12642 = some (.errBusy .payload) ∧
  decodeKey 0x0224D = some (.huntDiscard 0x4D) ∧ decodeKey 0x02442 = some .m2Rehit ∧
  decodeKey 0x02730 = some (.plLast 0x30)

/-- The port width `AVAIL_W`, which R10 leaves to the instance, changes no decode key: two machines that differ in it alone
form the same key. -/
def Obligations.AvailWidthChangesNoKey : Prop :=
  ∀ (s : State) (extra : Nat),
    decodeKeyOf { s with params := { s.params with availExtra := extra } } = decodeKeyOf s

/-- The state `placeKey` makes (behind `State.withFetchWord`, log entry 8: the model's interface) shows exactly the key
given, for every key an environment can produce (R86: `ge32` implies `nz`). -/
def Obligations.PlacedKeyIsTheKeyOfTheCycle : Prop :=
  ∀ (s : State) (K : Key), (K.ge32 = true → K.nz = true) → decodeKeyOf (placeKey s K) = K

/-! ## The step -/

/-- A step performs the operation its decode key decodes to, then ends the cycle: the arriving bytes join the queue (all those
appended, where there is room; log entry 10), the schedule and the cycle number move on. -/
def Obligations.StepRunsTheDecodedOperation : Prop :=
  ∀ (s t : State) (i : Instr), decodeKey (decodeKeyOf s) = some i → exec i s = .next t →
    step s = .next { t with
      queue := t.queue ++ arriving t.params t.cycle t.queue.length (pins s).appended
      script := t.script.tail
      cycle := t.cycle + 1 }

/-- R189: which operation a cycle performs, whatever else holds in it. -/
def Obligations.OneOperationByPriority : Prop :=
  ∀ s : State, selectOp s = some (operationOf s)

/-- `CoreStep` is total: every cycle from every state ends in a next state, with no stop (R88, R180). -/
def Obligations.EveryCycleCompletes : Prop :=
  ∀ s : State, ∃ t, step s = .next t

/-- The closed-system step of R67: `Q' := (if src_pop then tail(Q) else Q) ++ A`, with `A` what arrives of the appended bytes
(all of them, where the queue has room; log entry 10). Where the source withholds nothing `src_avail` is what R50 and R67 say,
the saturated length of the queue. That a source may withhold bytes, and that `src_avail` is then the saturated count of the
rest, is the model's inference from R220, "Under-reporting is safe" (DEDUCED, log entry 15). -/
def Obligations.CycleComposesWithTheQueue : Prop :=
  ∀ s t : State, step s = .next t →
    srcAvail s = min (s.queue.length - (pins s).withheld) (2 ^ s.params.availW - 1) ∧
    ((pins s).withheld = 0 → srcAvail s = min s.queue.length (2 ^ s.params.availW - 1)) ∧
    (∀ h q, s.queue = h :: q → srcAvail s ≠ 0 → srcData s = h) ∧
    t.queue = (if srcPop s then s.queue.tail else s.queue) ++
      arriving s.params s.cycle (if srcPop s then s.queue.tail else s.queue).length (pins s).appended ∧
    t.delivered = s.delivered ++ (if srcPop s then [srcData s] else []) ∧
    t.script = s.script.tail ∧ t.cycle = s.cycle + 1 ∧ t.params = s.params

/-- R29: `src_pop` is 1 exactly in a cycle whose operation pops; then `src_avail` is not 0 and the source removes `src_data`,
its head; otherwise it removes nothing. -/
def Obligations.SrcPopRemovesTheHead : Prop :=
  ∀ (s : State) (i : Instr) (t : State), selectOp s = some i → exec i s = .next t →
    (srcPop s = true ↔ ∃ b, popData i = some b) ∧
    (srcPop s = true → srcAvail s ≠ 0 ∧ s.queue = srcData s :: t.queue ∧ t.delivered = s.delivered ++ [srcData s]) ∧
    (srcPop s = false → t.queue = s.queue ∧ t.delivered = s.delivered)

/-- Nothing is lost, reordered or duplicated on the way through the byte source, over any number of cycles, resets
included (R62): behind the queue stand the bytes that arrived, which are those appended where the queue has room for them. -/
def Obligations.StreamIsKeptInOrder : Prop :=
  ∀ (cs rest : List CycleInput) (s t : State), s.script = cs ++ rest → runFor cs.length s = .next t →
    ∃ arrived, t.delivered ++ t.queue = s.delivered ++ s.queue ++ arrived ∧
      (Fits s cs → arrived = appendedBytes cs) ∧ s.delivered <+: t.delivered

/-! ## What each operation does -/

/-- R210: RST from any state, whatever the other inputs; several reset cycles are as one. -/
def Obligations.ResetFromAnyState : Prop :=
  (∀ s : State, ∃ t, exec .rst s = .next t ∧ t.fsm = .idle ∧ t.idx = 0 ∧ t.faultCode = .none ∧ t.buf = s.buf ∧
    t.queue = s.queue ∧ t.delivered = s.delivered) ∧
  (∀ s t : State, exec .rst s = .next t → exec .rst t = .next t) ∧
  ∀ s : State, (pins s).rst = true →
    selectOp s = some .rst ∧ srcPop s = false ∧
    ∃ t, step s = .next t ∧ t.fsm = .idle ∧ t.idx = 0 ∧ t.faultCode = .none ∧ t.buf = s.buf ∧
      t.queue = s.queue ++ arriving s.params s.cycle s.queue.length (pins s).appended ∧ t.delivered = s.delivered ∧
      rdValid t = false ∧ busy t = false ∧ stFault t = 0

/-- The state the model starts from is the one of R39, with a buffer nothing has been written to (the model's choice, log
entry 1). -/
def Obligations.ResetStateIsTheBootState : Prop :=
  State.reset.fsm = .idle ∧ State.reset.idx = 0 ∧ State.reset.faultCode = .none ∧
  (∀ a, State.reset.buf.read a = none) ∧ rdValid State.reset = false ∧ busy State.reset = false ∧
  stState State.reset = 0b000 ∧ stFault State.reset = 0b00

/-- IDLE_WAIT, HUNT_STALL, M2_STALL, PL_STALL, EMIT_HOLD and FAULT_HOLD assign nothing and pop nothing. -/
def Obligations.WaitingOperationsChangeNothing : Prop :=
  ∀ (s : State) (run err ge32 : Bool),
    exec (.idleWait run err ge32) s = .next s ∧ exec .huntStall s = .next s ∧ exec .m2Stall s = .next s ∧
    exec .plStall s = .next s ∧ exec .emitHold s = .next s ∧ exec .faultHold s = .next s

/-- IDLE_GATE writes `fsm <- HUNT` and nothing else. -/
def Obligations.GateOpensTheHunt : Prop :=
  ∀ s : State, exec .idleGate s = .next { s with fsm := .hunt }

/-- HUNT_DISCARD drops its byte; HUNT_HIT consumes the `0x42` and expects the `0x4D`. -/
def Obligations.HuntConsumesOneByte : Prop :=
  ∀ (s : State) (q : List Byte),
    (∀ b, s.queue = b :: q →
      exec (.huntDiscard b) s = .next { s with queue := q, delivered := s.delivered ++ [b] }) ∧
    (s.queue = 0x42 :: q →
      exec .huntHit s = .next { s with fsm := .got42, queue := q, delivered := s.delivered ++ [0x42] })

/-- M2_LOCK starts the capture at index 0; M2_REHIT keeps the half-marker; M2_BREAK resumes the hunt. -/
def Obligations.HalfMarkerConsumesOneByte : Prop :=
  ∀ (s : State) (q : List Byte),
    (s.queue = 0x4D :: q →
      exec .m2Lock s = .next { s with fsm := .payload, idx := 0, queue := q, delivered := s.delivered ++ [0x4D] }) ∧
    (s.queue = 0x42 :: q →
      exec .m2Rehit s = .next { s with queue := q, delivered := s.delivered ++ [0x42] }) ∧
    (∀ b, s.queue = b :: q →
      exec (.m2Break b) s = .next { s with fsm := .hunt, queue := q, delivered := s.delivered ++ [b] })

/-- PL_CAPTURE stores its byte at `idx` and counts on; PL_LAST stores the 30th byte at 29 and offers the Reading, `idx`
staying as it is. Every other offset of `buf` reads as before. -/
def Obligations.PayloadByteIsStored : Prop :=
  ∀ (s : State) (q : List Byte) (b : Byte), s.queue = b :: q →
    (s.idx.toNat < 30 → ∃ m, (∀ a, Memory.read m a = if a = s.idx.toNat then some b else s.buf.read a) ∧
      exec (.plCapture b) s =
        .next { s with buf := m, idx := s.idx + 1, queue := q, delivered := s.delivered ++ [b] }) ∧
    (∃ m, (∀ a, Memory.read m a = if a = 29 then some b else s.buf.read a) ∧
      exec (.plLast b) s = .next { s with fsm := .emit, buf := m, queue := q, delivered := s.delivered ++ [b] })

/-- PL_CAPTURE with `idx` 30 or 31, which no run reaches: the write falls outside `buf`, and `idx` wraps in 5 bits so that
capture goes on from `buf[0]` (R23). -/
def Obligations.IndexOutsideTheBufferWraps : Prop :=
  ∀ (s : State) (q : List Byte) (b : Byte), s.queue = b :: q →
    (s.idx = 30 → exec (.plCapture b) s = .next { s with idx := 31, queue := q, delivered := s.delivered ++ [b] }) ∧
    (s.idx = 31 → exec (.plCapture b) s = .next { s with idx := 0, queue := q, delivered := s.delivered ++ [b] })

/-- EMIT_ACCEPT hands over the Reading on offer, valid or not, and ends the attempt. What the reader takes stands in the model's
record `taken` (log entry 6). -/
def Obligations.AcceptHandsTheReadingOver : Prop :=
  ∀ s : State,
    exec .emitAccept s = .next { s with fsm := .idle, taken := s.taken ++ [readingOf s.csumLast s.buf] } ∧
    (s.fsm = .emit → rdData s = readingOf s.csumLast s.buf)

/-- ERR_IDLE and ERR_BUSY record TRANSPORT, RSV_STATE records INTERNAL; each enters FAULT and changes nothing else (R14,
R182, R183, R185, R186). -/
def Obligations.FaultOperationsRecordTheirCode : Prop :=
  ∀ (s : State) (h : BusyFsm) (r : RsvFsm),
    exec .errIdle s = .next { s with fsm := .fault, faultCode := .transport } ∧
    exec (.errBusy h) s = .next { s with fsm := .fault, faultCode := .transport } ∧
    exec (.rsvState r) s = .next { s with fsm := .fault, faultCode := .internal } ∧
    FaultCode.code .transport = 0b01 ∧ FaultCode.code .internal = 0b10 ∧ Fsm.code .fault = 0b111

/-- Where a popping operation stops: with an empty queue, or with a `src_data` that is not the queue's head, the byte source
has broken its duty and the spec gives the run no meaning (R220, I8; log entry 7). -/
def Obligations.PopWithoutItsByteStops : Prop :=
  ∀ (s : State) (i : Instr) (b : Byte), popData i = some b →
    (s.queue = [] → exec i s = .refused .popFromEmpty) ∧
    (∀ h q, s.queue = h :: q → h ≠ b → exec i s = .refused .dataNotHead)

/-! ## What the operations leave alone -/

/-- Only PL_CAPTURE and PL_LAST write `buf`, each at one offset; every other offset reads as before (R24). -/
def Obligations.OnlyPayloadOperationsWriteBuf : Prop :=
  ∀ (i : Instr) (s t : State), exec i s = .next t →
    (storedOffset i s = none → ∀ a, t.buf.read a = s.buf.read a) ∧
    (∀ o, storedOffset i s = some o → ∀ a, a ≠ o → t.buf.read a = s.buf.read a) ∧
    (∀ o, storedOffset i s = some o → o < 30 → t.buf.read o = popData i)

/-- R25: who writes `fault_code`, and with what; the encodings of its values. -/
def Obligations.OnlyFaultsAndResetWriteFaultCode : Prop :=
  (∀ (i : Instr) (s t : State), exec i s = .next t →
    t.faultCode =
      match i with
      | .rst => .none
      | .errIdle => .transport
      | .errBusy _ => .transport
      | .rsvState _ => .internal
      | _ => s.faultCode) ∧
  FaultCode.code .none = 0b00 ∧ FaultCode.code .transport = 0b01 ∧ FaultCode.code .internal = 0b10 ∧
  FaultCode.code .rsv11 = 0b11

/-- Who writes `idx`, and with what (R23, R210): by operation, and by what holds in a cycle. -/
def Obligations.OnlyLockCaptureAndResetWriteIdx : Prop :=
  (∀ (i : Instr) (s t : State), exec i s = .next t →
    t.idx =
      match i with
      | .rst => 0
      | .m2Lock => 0
      | .plCapture _ => s.idx + 1
      | _ => s.idx) ∧
  ∀ s t : State, step s = .next t →
    t.idx =
      if (pins s).rst then 0
      else if (pins s).srcErr then s.idx
      else if s.fsm = .got42 ∧ shown s = some 0x4D then 0
      else if s.fsm = .payload ∧ shown s ≠ none ∧ s.idx ≠ 29 then s.idx + 1
      else s.idx

/-- What no operation but one writes: a Reading is taken by EMIT_ACCEPT alone (R31, R153); the queue and the record of popped
bytes change by a popping operation alone, by one byte (R51, R59); no operation touches the schedule or the parameters. That
RST takes no Reading either, although in EMIT with `rd_ready = 1` the words of R31 would transfer it, is the model's choice
between R31 and R212 (DESIGN CHOICE, log entry 17); `taken` and `delivered` are the model's records (log entry 6). -/
def Obligations.AgentsChangeOnlyByTheirOperations : Prop :=
  ∀ (i : Instr) (s t : State), exec i s = .next t →
    (i ≠ .emitAccept → t.taken = s.taken) ∧
    (popData i = none → t.queue = s.queue ∧ t.delivered = s.delivered) ∧
    (∀ b, popData i = some b → s.queue = b :: t.queue ∧ t.delivered = s.delivered ++ [b]) ∧
    t.script = s.script ∧ t.cycle = s.cycle ∧ t.params = s.params

/-- Without reset the controller moves only along its graph: an attempt once begun goes on to EMIT or FAULT, EMIT ends only
in IDLE, and nothing leaves FAULT (R64, R187). -/
def Obligations.ControllerMovesAlongItsGraph : Prop :=
  ∀ s t : State, (pins s).rst = false → step s = .next t → t.fsm ∈ successors s.fsm

/-! ## Invariants -/

/-- The reset state, with the empty buffer, queue and records the model gives it (log entries 1 and 14), has the invariant. -/
def Obligations.ResetMeetsInv : Prop := Inv State.reset

/-- Every step keeps the invariant of R41. -/
def Obligations.EveryStepKeepsInv : Prop :=
  ∀ s t : State, Inv s → step s = .next t → Inv t

/-- In EMIT the Reading on the port is that of the last 30 bytes popped, which came right after a marker, and the checked
decoder never meets an unwritten byte (R34, R41 item 4, R42, R128). -/
def Obligations.OfferIsTheCapturedPayload : Prop :=
  ∀ s : State, Inv s → s.fsm = .emit →
    ∃ before p, p.length = 30 ∧ s.delivered = before ++ [0x42, 0x4D] ++ p ∧
      rdData s = readingOfPayload s.csumLast p ∧
      checkedReading s.csumLast s.buf = .ok (readingOfPayload s.csumLast p)

/-- The checked decoder, R42's advice for a model, faults exactly where a payload byte has not been written. That it stands
beside the machine (no step calls it) and names the first such offset is the model's choice (DESIGN CHOICE, log entry 2). -/
def Obligations.CheckedDecoderFaultsOnUnwrittenBytes : Prop :=
  ∀ (last : Nat) (m : Memory),
    ((∀ i, i < 30 → m.read i ≠ none) → checkedReading last m = .ok (readingOf last m)) ∧
    (∀ i, i < 30 → m.read i = none → (∀ j, j < i → m.read j ≠ none) → checkedReading last m = .error (.unwrittenByte i))

/-! ## The synchronizer -/

/-- The hunt begins only through the gate: `run = 1`, no error, no reset, at least 32 bytes counted and held, and no byte
popped (R111, R41 item 5). -/
def Obligations.HuntBeginsAtTheGate : Prop :=
  ∀ s t : State, step s = .next t → t.fsm = .hunt → s.fsm ≠ .hunt → s.fsm ≠ .got42 →
    s.fsm = .idle ∧ (pins s).run = true ∧ (pins s).srcErr = false ∧ (pins s).rst = false ∧
    32 ≤ srcAvail s ∧ 32 ≤ s.queue.length ∧ t.delivered = s.delivered ∧
    t.queue = s.queue ++ arriving s.params s.cycle s.queue.length (pins s).appended

/-- Nothing is popped in IDLE, EMIT, FAULT or a reserved state, whatever the inputs (R112, R184, R230). -/
def Obligations.NoPopOutsideTheSearchAndCapture : Prop :=
  ∀ s t : State, s.fsm ≠ .hunt → s.fsm ≠ .got42 → s.fsm ≠ .payload → step s = .next t →
    srcPop s = false ∧ t.delivered = s.delivered ∧
    t.queue = s.queue ++ arriving s.params s.cycle s.queue.length (pins s).appended

/-- While no lock has happened, the core is in GOT42 after a pop exactly if the byte popped was `0x42`; it locks exactly on
a `0x4D` popped in GOT42 (R124). -/
def Obligations.HalfMarkerFollowsTheByte : Prop :=
  ∀ s t : State, s.fsm = .hunt ∨ s.fsm = .got42 → srcPop s = true → step s = .next t →
    (t.fsm = .got42 ↔ srcData s = 0x42) ∧
    (t.fsm = .payload ↔ s.fsm = .got42 ∧ srcData s = 0x4D) ∧
    (t.fsm = .payload → t.idx = 0)

/-- The search as a whole: from IDLE with `junk`, a marker and a payload in the queue and no marker in the junk, a quiet run
of `junk.length + 33` cycles whose first has `run = 1` ends in EMIT with exactly that payload on offer, whatever its bytes
and its checksum (R58, R124, R149, R231 with no stalls). The count of cycles is that of a byte source that tells the whole
truth (nothing withheld; log entry 15, DEDUCED) and of one operation per cycle (log entry 16, DEDUCED). -/
def Obligations.FirstMarkerIsFoundAndItsPayloadOffered : Prop :=
  ∀ (s : State) (junk p rest : List Byte) (c : CycleInput) (cs later : List CycleInput),
    s.fsm = .idle → s.queue = junk ++ wireFrame p ++ rest → p.length = 30 → NoMarkerIn junk →
    s.script = (c :: cs) ++ later → cs.length = junk.length + 32 → c.run = true →
    (∀ d ∈ c :: cs, Quiet d ∧ d.withheld = 0) →
    ∃ t arrived, runFor (junk.length + 33) s = .next t ∧ t.fsm = .emit ∧ rdData t = readingOfPayload s.csumLast p ∧
      (∀ i, i < 30 → t.buf.read i = p[i]?) ∧
      t.queue = rest ++ arrived ∧ (Fits s (c :: cs) → arrived = appendedBytes (c :: cs)) ∧
      t.delivered = s.delivered ++ junk ++ wireFrame p ∧ t.taken = s.taken ∧ t.faultCode = s.faultCode

/-- Frames that arrive back to back, aligned and in time, are each handed over 34 cycles after the one before, in order and
with none left out (R126, R231). The count of cycles is that of a byte source that tells the whole truth (nothing withheld;
log entry 15, DEDUCED) and of one operation per cycle (log entry 16, DEDUCED). -/
def Obligations.BackToBackFramesTake34CyclesEach : Prop :=
  ∀ (ps : List (List Byte)) (s : State) (rest : List Byte) (cs later : List CycleInput),
    s.fsm = .idle → s.queue = ps.flatMap wireFrame ++ rest → (∀ p ∈ ps, p.length = 30) →
    s.script = cs ++ later → cs.length = 34 * ps.length →
    (∀ c ∈ cs, Quiet c ∧ c.withheld = 0 ∧ c.run = true ∧ c.rdReady = true) →
    ∃ t arrived, runFor (34 * ps.length) s = .next t ∧ t.fsm = .idle ∧
      t.taken = s.taken ++ ps.map (readingOfPayload s.csumLast) ∧
      t.queue = rest ++ arrived ∧ (Fits s cs → arrived = appendedBytes cs) ∧ t.faultCode = s.faultCode

/-- The reset state, with the empty records the model gives it (log entries 6 and 14), stands at the start of the stream. -/
def Obligations.ResetFollowsTheStream : Prop := FollowsStream State.reset

/-- A cycle without reset and without transport error keeps the core in step with the reading of the bytes it has popped
(R124, R232). -/
def Obligations.QuietStepsFollowTheStream : Prop :=
  ∀ s t : State, FollowsStream s → Quiet (pins s) → step s = .next t → FollowsStream t

/-- Without reset and transport error, the Readings offered are a function of the byte stream alone (R232, in terms of the
bytes popped; StreamIsKeptInOrder says that these are a beginning of the stream). Two quiet runs from IDLE with the records
empty (log entry 6), as after a reset, whatever their queues and buffers, their stalls, the counts the source reports, arrival
times, `run` and `rd_ready`: if one has popped a beginning of what the other has popped, it has offered a beginning of what
the other has offered; and the Readings a run has offered are the first of those that the stream gives. -/
def Obligations.ReadingsDependOnTheStreamAlone : Prop :=
  ∀ (cs ds : List CycleInput) (s₀ t₀ s t : State),
    s₀.fsm = .idle → s₀.delivered = [] → s₀.taken = [] → s₀.script = cs → (∀ c ∈ cs, Quiet c) →
    t₀.fsm = .idle → t₀.delivered = [] → t₀.taken = [] → t₀.script = ds → (∀ d ∈ ds, Quiet d) →
    s₀.params.csumLast = t₀.params.csumLast →
    runFor cs.length s₀ = .next s → runFor ds.length t₀ = .next t →
    (s.delivered <+: t.delivered → offered s <+: offered t) ∧
    ∀ stream, s.delivered <+: stream →
      offered s <+: (scan stream).frames.map (readingOfPayload s₀.csumLast)

/-- A stall has no time limit and loses nothing: in quiet cycles in which the source counts no byte, because it holds none or
leaves all of them out, and none is appended, no register changes (R113, R116, R120, R121; R220 "under-reporting is
safe"). -/
def Obligations.StallsLastUntilAByteArrives : Prop :=
  ∀ (cs later : List CycleInput) (s : State),
    s.fsm = .hunt ∨ s.fsm = .got42 ∨ s.fsm = .payload → s.script = cs ++ later →
    (∀ c ∈ cs, Quiet c ∧ c.appended = [] ∧ s.queue.length ≤ c.withheld) →
    runFor cs.length s = .next { s with script := later, cycle := s.cycle + cs.length }

/-! ## Hand-over, faults and inputs without effect -/

/-- R154: from the first cycle of EMIT to the accept cycle every output of the reader port has one value, however long the
reader waits and whatever the other inputs do. -/
def Obligations.OfferIsStableUntilAccepted : Prop :=
  ∀ (cs later : List CycleInput) (s : State), s.fsm = .emit → s.script = cs ++ later →
    (∀ c ∈ cs, c.rst = false ∧ c.rdReady = false) →
    ∃ t arrived, runFor cs.length s = .next t ∧ rdValid t = true ∧ rdData t = rdData s ∧
      t = { s with queue := s.queue ++ arrived, script := later, cycle := s.cycle + cs.length } ∧
      (Fits s cs → arrived = appendedBytes cs)

/-- R184: in FAULT every input but `rst` is ignored, no byte is popped and no Reading offered, for ever if no reset
comes. -/
def Obligations.FaultLastsUntilReset : Prop :=
  ∀ (cs later : List CycleInput) (s : State), s.fsm = .fault → s.script = cs ++ later →
    (∀ c ∈ cs, c.rst = false) →
    rdValid s = false ∧ ((pins s).rst = false → selectOp s = some .faultHold ∧ srcPop s = false) ∧
    ∃ arrived, runFor cs.length s =
        .next { s with queue := s.queue ++ arrived, script := later, cycle := s.cycle + cs.length } ∧
      (Fits s cs → arrived = appendedBytes cs)

/-- R181: where `src_err` is examined a 1 takes the TransportError, with nothing popped and nothing else changed; where it is
not, its value has no effect. -/
def Obligations.TransportErrorIsTakenWhereTheSourceIsRead : Prop :=
  (∀ s : State, (pins s).rst = false → (pins s).srcErr = true →
    (s.fsm = .hunt ∨ s.fsm = .got42 ∨ s.fsm = .payload ∨ (s.fsm = .idle ∧ (pins s).run = true)) →
    step s = .next { s with
      fsm := .fault
      faultCode := .transport
      queue := s.queue ++ arriving s.params s.cycle s.queue.length (pins s).appended
      script := s.script.tail
      cycle := s.cycle + 1 }) ∧
  (∀ (s : State) (c : CycleInput) (later : List CycleInput) (e : Bool),
    (s.fsm = .emit ∨ s.fsm = .fault ∨ (s.fsm = .idle ∧ c.run = false)) →
    step { s with script := { c with srcErr := e } :: later } = step { s with script := c :: later })

/-- `run` is read only in IDLE: in any other state its value has no effect (R30). -/
def Obligations.RunIsReadOnlyInIdle : Prop :=
  ∀ (s : State) (c : CycleInput) (later : List CycleInput) (r : Bool), s.fsm ≠ .idle →
    step { s with script := { c with run := r } :: later } = step { s with script := c :: later }

/-- `rd_ready` is read only in EMIT (R31, R153). -/
def Obligations.ReadyIsReadOnlyInEmit : Prop :=
  ∀ (s : State) (c : CycleInput) (later : List CycleInput) (r : Bool), s.fsm ≠ .emit →
    step { s with script := { c with rdReady := r } :: later } = step { s with script := c :: later }

/-- The byte `src_data` shows while `src_avail` is 0 is read by no operation (R67, I2). -/
def Obligations.DataOfAnEmptySourceIsNotRead : Prop :=
  ∀ (s : State) (c : CycleInput) (later : List CycleInput) (d : Byte),
    step { s with script := { c with emptyData := d } :: later } = step { s with script := c :: later }

/-- A reset abandons the attempt cleanly: after it, states that differ only in the core's registers are one state (R210,
R211, R212, R213). The states include the record `taken`: that they agree in it too where one of them is EMIT and
`rd_ready = 1` is the model's choice that a reset cycle hands nothing over (DESIGN CHOICE, log entry 17). -/
def Obligations.ResetForgetsTheAttempt : Prop :=
  ∀ (s : State) (f : Fsm) (i : BitVec 5) (fc : FaultCode), (pins s).rst = true →
    step { s with fsm := f, idx := i, faultCode := fc } = step s

/-! ## The decoder -/

/-- R33: the outputs that depend on the state alone. -/
def Obligations.StatusOutputsShowTheState : Prop :=
  ∀ s : State,
    (rdValid s = true ↔ s.fsm = .emit) ∧
    (busy s = true ↔ s.fsm = .hunt ∨ s.fsm = .got42 ∨ s.fsm = .payload ∨ s.fsm = .emit) ∧
    stState s = s.fsm.code ∧ stFault s = s.faultCode.code

/-- R140: lane k is its two bytes, big-endian, on port `rd_lane<k>`. -/
def Obligations.LaneIsBigEndian : Prop :=
  ∀ (last : Nat) (buf : Nat → Byte) (k : Nat), k < 15 →
    (lane buf k).toNat = (buf (2 * k)).toNat * 256 + (buf (2 * k + 1)).toNat ∧
    laneOf (readingFrom last buf) k = lane buf k

/-- The Reading is a function of the thirty payload bytes and `CSUM_LAST`, and each lane of its own two bytes (R141, R150). -/
def Obligations.ReadingDependsOnThirtyBytes : Prop :=
  (∀ (c : CsumLast) (buf buf' : Nat → Byte), (∀ i, i < 30 → buf i = buf' i) →
    readingFrom c.offset buf = readingFrom c.offset buf') ∧
  (∀ (c c' : CsumLast) (buf buf' : Nat → Byte) (k : Nat), k < 15 → buf (2 * k) = buf' (2 * k) →
    buf (2 * k + 1) = buf' (2 * k + 1) → laneOf (readingFrom c.offset buf) k = laneOf (readingFrom c'.offset buf') k)

/-- The named fields are their lanes, and lane 13 is `version` and `error_code` (R147, R148). -/
def Obligations.NamedFieldsAreTheirLanes : Prop :=
  ∀ (last : Nat) (buf : Nat → Byte),
    [frameLength, pm1_0Standard, pm2_5Standard, pm10Standard, pm1_0Atmospheric, pm2_5Atmospheric, pm10Atmospheric,
      countGt0_3um, countGt0_5um, countGt1_0um, countGt2_5um, countGt5_0um, countGt10_0um].map
        (fun field => (field (readingFrom last buf)).toNat) =
      (List.range 13).map (fun k => (buf (2 * k)).toNat * 256 + (buf (2 * k + 1)).toNat) ∧
    checksumDeclared (readingFrom last buf) = lane buf 14 ∧ checksumComputed (readingFrom last buf) = csumCalc last buf ∧
    (readingFrom last buf).version = buf 26 ∧ (readingFrom last buf).errorCode = buf 27 ∧
    (readingFrom last buf).lane13.toNat = (readingFrom last buf).version.toNat * 256 + (readingFrom last buf).errorCode.toNat

/-- R142: the checksum is `0xFF` plus the bytes at offsets 0 to `CSUM_LAST`, mod 2^16; the machine's `CSUM_LAST` is that of
its parameters, 26 or 27 (R9). The last clause, 26 after reset, is the model's reading: it follows the choice that
90_conflicts.md C1 makes (DEDUCED, log entry 9). -/
def Obligations.ChecksumSumsMarkerAndPayload : Prop :=
  (∀ (last : Nat) (buf : Nat → Byte),
    (csumCalc last buf).toNat = (0xFF + ((List.range (last + 1)).map fun i => (buf i).toNat).sum) % 2 ^ 16) ∧
  (∀ s : State, s.fsm = .emit → (rdData s).csumCalc = csumCalc s.csumLast (bufByte s.buf)) ∧
  (∀ s : State, (s.params.csumLast = .at26 → s.csumLast = 26) ∧ (s.params.csumLast = .at27 → s.csumLast = 27)) ∧
  State.reset.csumLast = 26

/-- R144: the reduction never wraps, and any accumulator of 13 bits or more gives the same checksum. -/
def Obligations.ChecksumNeverWraps : Prop :=
  ∀ buf : Nat → Byte,
    csumExact 26 buf ≤ 7140 ∧ csumExact 27 buf ≤ 7395 ∧
    (csumCalc 26 buf).toNat = csumExact 26 buf ∧ (csumCalc 27 buf).toNat = csumExact 27 buf ∧
    ∀ w, 13 ≤ w → csumExact 26 buf % 2 ^ w = csumExact 26 buf ∧ csumExact 27 buf % 2 ^ w = csumExact 27 buf

/-- The validity flag is equality with the declared checksum, and a declared checksum of 0 is never correct (R143). -/
def Obligations.ValidityIsEqualityAndZeroIsInvalid : Prop :=
  ∀ (last : Nat) (buf : Nat → Byte),
    ((readingFrom last buf).csumOk = true ↔ (readingFrom last buf).csumCalc = (readingFrom last buf).csumDecl) ∧
    (lane buf 14 = 0 → csumOk 26 buf = false ∧ csumOk 27 buf = false)

/-- R146: one changed byte inside the sum is detected; with `CSUM_LAST = 26` a change of `buf[27]` alone leaves the flag;
two changes of opposite amounts inside the sum are not detected. -/
def Obligations.SingleByteChangeIsDetected : Prop :=
  (∀ (last : Nat) (buf : Nat → Byte) (i : Nat) (v : Byte), last = 26 ∨ last = 27 → csumOk last buf = true →
    i ≤ last → v ≠ buf i → csumOk last (Function.update buf i v) = false) ∧
  (∀ (buf : Nat → Byte) (v : Byte), csumOk 26 (Function.update buf 27 v) = csumOk 26 buf) ∧
  (∀ (last : Nat) (buf : Nat → Byte) (i j : Nat) (v w : Byte), last = 26 ∨ last = 27 → csumOk last buf = true →
    i ≤ last → j ≤ last → i ≠ j → v.toNat + w.toNat = (buf i).toNat + (buf j).toNat →
    csumOk last (Function.update (Function.update buf i v) j w) = true)

/-! ## What the model settles -/

/-- A reset cycle in EMIT hands no Reading over, whatever `rd_ready` is, and RST writes nothing but the core's registers. R212
says that a reset in EMIT drops the Reading on offer; that it does so with `rd_ready = 1` too, where the words of R31 would
transfer it, is the model's choice (DESIGN CHOICE, log entry 17). -/
def Obligations.ResetInEmitHandsNothingOver : Prop :=
  (∀ s : State, exec .rst s = .next { s with fsm := .idle, idx := 0, faultCode := .none }) ∧
  ∀ s t : State, s.fsm = .emit → (pins s).rst = true → step s = .next t →
    t.taken = s.taken ∧ rdValid t = false

/-- Where the byte source's queue has room for the appended bytes they all arrive (R52); a cycle never takes a queue over
`SRC_DEPTH` (R10), and leaves one that is over it no longer than it was. Which bytes enter a full queue is free (log entry
10). -/
def Obligations.QueueKeepsItsDepth : Prop :=
  (∀ (p : Params) (n held : Nat) (A : List Byte), (∀ d, p.depth = some d → held + A.length ≤ d) →
    arriving p n held A = A) ∧
  ∀ (s t : State) (d : Nat), s.params.depth = some d → step s = .next t →
    32 ≤ d ∧ t.queue.length ≤ max d s.queue.length
end

