-- ==== Sys2Proof/Laws/Decode.lean ====
section
/-! SUPPORT. The fields of a key built from fields, and each row's condition `(K & mask) == match` in terms of the key's
fields (the "condition" column of spec/30_encoding.md R87). -/

namespace Sys2Proof

@[simp] theorem Fsm.ofCode_code (f : Fsm) : Fsm.ofCode f.code = f := by cases f <;> rfl

@[simp] theorem Fsm.code_ofCode (c : BitVec 3) : (Fsm.ofCode c).code = c := by
  revert c; decide

variable (rst err run ge32 nz rdy : Bool) (f : Fsm) (last : Bool) (data : Byte)

/-- Every bit of a key built from fields is a bit of one field (R86). -/
theorem getLsbD_mkKey (i : Nat) :
    (mkKey rst err run ge32 nz rdy f last data).getLsbD i =
      if i < 8 then data.getLsbD i else if i < 9 then (BitVec.ofBool last).getLsbD (i - 8)
      else if i < 12 then f.code.getLsbD (i - 9) else if i < 13 then (BitVec.ofBool rdy).getLsbD (i - 12)
      else if i < 14 then (BitVec.ofBool nz).getLsbD (i - 13) else if i < 15 then (BitVec.ofBool ge32).getLsbD (i - 14)
      else if i < 16 then (BitVec.ofBool run).getLsbD (i - 15) else if i < 17 then (BitVec.ofBool err).getLsbD (i - 16)
      else (BitVec.ofBool rst).getLsbD (i - 17) := by
  have h : (mkKey rst err run ge32 nz rdy f last data).getLsbD i =
      (BitVec.ofBool rst ++ BitVec.ofBool err ++ BitVec.ofBool run ++ BitVec.ofBool ge32 ++ BitVec.ofBool nz ++
        BitVec.ofBool rdy ++ f.code ++ BitVec.ofBool last ++ data : BitVec (1 + 1 + 1 + 1 + 1 + 1 + 3 + 1 + 8)).getLsbD i := rfl
  rw [h]
  simp only [BitVec.getLsbD_append]
  by_cases hi : i < 18
  · interval_cases i <;> simp
  · have : ¬ i < 8 ∧ ¬ i < 9 ∧ ¬ i < 12 ∧ ¬ i < 13 ∧ ¬ i < 14 ∧ ¬ i < 15 ∧ ¬ i < 16 ∧ ¬ i < 17 := by omega
    simp only [this, if_false]
    repeat rw [if_neg (by omega)]
    rw [BitVec.getLsbD_of_ge _ _ (by omega), BitVec.getLsbD_of_ge _ _ (by omega)]

@[simp] theorem Key.rst_mkKey : (mkKey rst err run ge32 nz rdy f last data).rst = rst := by
  rw [Key.rst, getLsbD_mkKey]; simp
@[simp] theorem Key.err_mkKey : (mkKey rst err run ge32 nz rdy f last data).err = err := by
  rw [Key.err, getLsbD_mkKey]; simp
@[simp] theorem Key.run_mkKey : (mkKey rst err run ge32 nz rdy f last data).run = run := by
  rw [Key.run, getLsbD_mkKey]; simp
@[simp] theorem Key.ge32_mkKey : (mkKey rst err run ge32 nz rdy f last data).ge32 = ge32 := by
  rw [Key.ge32, getLsbD_mkKey]; simp
@[simp] theorem Key.nz_mkKey : (mkKey rst err run ge32 nz rdy f last data).nz = nz := by
  rw [Key.nz, getLsbD_mkKey]; simp
@[simp] theorem Key.rdy_mkKey : (mkKey rst err run ge32 nz rdy f last data).rdy = rdy := by
  rw [Key.rdy, getLsbD_mkKey]; simp
@[simp] theorem Key.last_mkKey : (mkKey rst err run ge32 nz rdy f last data).last = last := by
  rw [Key.last, getLsbD_mkKey]; simp
@[simp] theorem Key.fsm_mkKey : (mkKey rst err run ge32 nz rdy f last data).fsm = f := by
  have : (mkKey rst err run ge32 nz rdy f last data).extractLsb' 9 3 = f.code := by
    ext i hi
    rw [BitVec.getElem_extractLsb', getLsbD_mkKey]
    have : i = 0 ∨ i = 1 ∨ i = 2 := by omega
    rcases this with rfl | rfl | rfl <;> simp
  rw [Key.fsm, this, Fsm.ofCode_code]
@[simp] theorem Key.data_mkKey : (mkKey rst err run ge32 nz rdy f last data).data = data := by
  ext i hi
  rw [Key.data, BitVec.getElem_extractLsb', getLsbD_mkKey]
  simp [hi]

/-- A key with the right fields is determined by its fields (R86). -/
theorem Key.fsm_eq_iff (K : Key) (g : Fsm) :
    K.fsm = g ↔ K.getLsbD 9 = g.code.getLsbD 0 ∧ K.getLsbD 10 = g.code.getLsbD 1 ∧ K.getLsbD 11 = g.code.getLsbD 2 := by
  have h : K.fsm = g ↔ K.extractLsb' 9 3 = g.code :=
    ⟨fun e => by rw [← e, Key.fsm, Fsm.code_ofCode], fun e => by rw [Key.fsm, e, Fsm.ofCode_code]⟩
  rw [h, BitVec.eq_of_getLsbD_eq_iff]
  constructor
  · intro e
    exact ⟨by simpa using e 0 (by decide), by simpa using e 1 (by decide), by simpa using e 2 (by decide)⟩
  · rintro ⟨e0, e1, e2⟩ i hi
    have : i = 0 ∨ i = 1 ∨ i = 2 := by omega
    rcases this with rfl | rfl | rfl
    · simpa using e0
    · simpa using e1
    · simpa using e2

theorem Key.data_eq_iff (K : Key) (d : Byte) : K.data = d ↔ ∀ i, i < 8 → K.getLsbD i = d.getLsbD i := by
  rw [BitVec.eq_of_getLsbD_eq_iff]
  exact forall_congr' fun i => forall_congr' fun hi => by simp [Key.data, hi]

/-- A row's condition, bit by bit. -/
theorem Row.hit_iff (r : Row) (K : Key) :
    r.hit K = true ↔ ∀ i, i < 18 → (K.getLsbD i && r.mask.getLsbD i) = r.pattern.getLsbD i := by
  rw [Row.hit, beq_iff_eq, BitVec.eq_of_getLsbD_eq_iff]
  exact forall_congr' fun i => forall_congr' fun _ => by rw [BitVec.getLsbD_and]

theorem forall_lt_18 (P : Nat → Prop) :
    (∀ i, i < 18 → P i) ↔ (∀ i, i < 8 → P i) ∧ P 8 ∧ P 9 ∧ P 10 ∧ P 11 ∧ P 12 ∧ P 13 ∧ P 14 ∧ P 15 ∧ P 16 ∧ P 17 := by
  constructor
  · intro h
    exact ⟨fun i hi => h i (by omega), by refine ⟨?_, ?_, ?_, ?_, ?_, ?_, ?_, ?_, ?_, ?_⟩ <;> exact h _ (by decide)⟩
  · rintro ⟨h, h8, h9, h10, h11, h12, h13, h14, h15, h16, h17⟩ i hi
    by_cases hlt : i < 8
    · exact h i hlt
    · interval_cases i <;> assumption

/-- A mask without data bits, seen bit by bit below bit 8. -/
theorem no_data_bits (K : Key) (m p : Key) (hm : ∀ i : Fin 8, m.getLsbD i = false) (hp : ∀ i : Fin 8, p.getLsbD i = false) :
    (∀ i, i < 8 → (K.getLsbD i && m.getLsbD i) = p.getLsbD i) ↔ True := by
  simp only [iff_true]
  intro i hi
  have a := hm ⟨i, hi⟩
  have b := hp ⟨i, hi⟩
  simp only at a b
  rw [a, b, Bool.and_false]

/-- A mask with all data bits, seen bit by bit below bit 8. -/
theorem all_data_bits (K : Key) (m p : Key) (d : Byte) (hm : ∀ i : Fin 8, m.getLsbD i = true)
    (hp : ∀ i : Fin 8, p.getLsbD i = d.getLsbD i) :
    (∀ i, i < 8 → (K.getLsbD i && m.getLsbD i) = p.getLsbD i) ↔ K.data = d := by
  rw [Key.data_eq_iff]
  refine forall_congr' fun i => forall_congr' fun hi => ?_
  have a := hm ⟨i, hi⟩
  have b := hp ⟨i, hi⟩
  simp only at a b
  rw [a, b, Bool.and_true]

/-- Bit 11 of the key is bit 2 of the state's encoding: 1 in EMIT, FAULT and the reserved encodings. -/
theorem Key.bit11_iff (K : Key) :
    K.getLsbD 11 = true ↔ K.fsm = .emit ∨ K.fsm = .rsv101 ∨ K.fsm = .rsv110 ∨ K.fsm = .fault := by
  have h : K.getLsbD 11 = K.fsm.code.getLsbD 2 := by simp [Key.fsm]
  rw [h]
  cases K.fsm <;> decide

theorem rowRst_hit (K : Key) : rowRst.hit K = true ↔ K.rst = true := by
  rw [Row.hit_iff, forall_lt_18, no_data_bits K rowRst.mask rowRst.pattern (by decide) (by decide)]
  simp [rowRst, Key.rst]

theorem rowFaultHold_hit (K : Key) : rowFaultHold.hit K = true ↔ K.rst = false ∧ K.fsm = .fault := by
  rw [Row.hit_iff, forall_lt_18, no_data_bits K rowFaultHold.mask rowFaultHold.pattern (by decide) (by decide)]
  simp [rowFaultHold, Key.rst, Key.fsm_eq_iff, Fsm.code]
  tauto

theorem rowEmitAccept_hit (K : Key) : rowEmitAccept.hit K = true ↔ K.rst = false ∧ K.fsm = .emit ∧ K.rdy = true := by
  rw [Row.hit_iff, forall_lt_18, no_data_bits K rowEmitAccept.mask rowEmitAccept.pattern (by decide) (by decide)]
  simp [rowEmitAccept, Key.rdy, Key.rst, Key.fsm_eq_iff, Fsm.code]
  tauto

theorem rowEmitHold_hit (K : Key) : rowEmitHold.hit K = true ↔ K.rst = false ∧ K.fsm = .emit ∧ K.rdy = false := by
  rw [Row.hit_iff, forall_lt_18, no_data_bits K rowEmitHold.mask rowEmitHold.pattern (by decide) (by decide)]
  simp [rowEmitHold, Key.rdy, Key.rst, Key.fsm_eq_iff, Fsm.code]
  tauto

theorem rowRsvState_hit (K : Key) : rowRsvState.hit K = true ↔ K.rst = false ∧ (K.fsm = .emit ∨ K.fsm = .rsv101 ∨ K.fsm = .rsv110 ∨ K.fsm = .fault) := by
  rw [Row.hit_iff, forall_lt_18, no_data_bits K rowRsvState.mask rowRsvState.pattern (by decide) (by decide)]
  rw [← Key.bit11_iff]
  simp [rowRsvState, Key.rst]
  tauto

theorem rowErrIdle_hit (K : Key) : rowErrIdle.hit K = true ↔ K.rst = false ∧ K.err = true ∧ K.run = true ∧ K.fsm = .idle := by
  rw [Row.hit_iff, forall_lt_18, no_data_bits K rowErrIdle.mask rowErrIdle.pattern (by decide) (by decide)]
  simp [rowErrIdle, Key.err, Key.rst, Key.run, Key.fsm_eq_iff, Fsm.code]
  tauto

theorem rowIdleGate_hit (K : Key) : rowIdleGate.hit K = true ↔ K.rst = false ∧ K.err = false ∧ K.run = true ∧ K.ge32 = true ∧ K.fsm = .idle := by
  rw [Row.hit_iff, forall_lt_18, no_data_bits K rowIdleGate.mask rowIdleGate.pattern (by decide) (by decide)]
  simp [rowIdleGate, Key.err, Key.ge32, Key.rst, Key.run, Key.fsm_eq_iff, Fsm.code]
  tauto

theorem rowIdleWait_hit (K : Key) : rowIdleWait.hit K = true ↔ K.rst = false ∧ K.fsm = .idle := by
  rw [Row.hit_iff, forall_lt_18, no_data_bits K rowIdleWait.mask rowIdleWait.pattern (by decide) (by decide)]
  simp [rowIdleWait, Key.rst, Key.fsm_eq_iff, Fsm.code]
  tauto

theorem rowErrBusy_hit (K : Key) : rowErrBusy.hit K = true ↔ K.rst = false ∧ K.err = true ∧ ¬ (K.fsm = .emit ∨ K.fsm = .rsv101 ∨ K.fsm = .rsv110 ∨ K.fsm = .fault) := by
  rw [Row.hit_iff, forall_lt_18, no_data_bits K rowErrBusy.mask rowErrBusy.pattern (by decide) (by decide)]
  rw [← Key.bit11_iff]
  simp [rowErrBusy, Key.err, Key.rst]
  tauto

theorem rowHuntStall_hit (K : Key) : rowHuntStall.hit K = true ↔ K.rst = false ∧ K.err = false ∧ K.fsm = .hunt ∧ K.nz = false := by
  rw [Row.hit_iff, forall_lt_18, no_data_bits K rowHuntStall.mask rowHuntStall.pattern (by decide) (by decide)]
  simp [rowHuntStall, Key.err, Key.nz, Key.rst, Key.fsm_eq_iff, Fsm.code]
  tauto

theorem rowHuntHit_hit (K : Key) : rowHuntHit.hit K = true ↔ K.rst = false ∧ K.err = false ∧ K.fsm = .hunt ∧ K.nz = true ∧ K.data = Config.marker0 := by
  rw [Row.hit_iff, forall_lt_18, all_data_bits K rowHuntHit.mask rowHuntHit.pattern Config.marker0 (by decide) (by decide)]
  simp [rowHuntHit, Key.err, Key.nz, Key.rst, Key.fsm_eq_iff, Fsm.code]
  tauto

theorem rowHuntDiscard_hit (K : Key) : rowHuntDiscard.hit K = true ↔ K.rst = false ∧ K.err = false ∧ K.fsm = .hunt ∧ K.nz = true := by
  rw [Row.hit_iff, forall_lt_18, no_data_bits K rowHuntDiscard.mask rowHuntDiscard.pattern (by decide) (by decide)]
  simp [rowHuntDiscard, Key.err, Key.nz, Key.rst, Key.fsm_eq_iff, Fsm.code]
  tauto

theorem rowM2Stall_hit (K : Key) : rowM2Stall.hit K = true ↔ K.rst = false ∧ K.err = false ∧ K.fsm = .got42 ∧ K.nz = false := by
  rw [Row.hit_iff, forall_lt_18, no_data_bits K rowM2Stall.mask rowM2Stall.pattern (by decide) (by decide)]
  simp [rowM2Stall, Key.err, Key.nz, Key.rst, Key.fsm_eq_iff, Fsm.code]
  tauto

theorem rowM2Lock_hit (K : Key) : rowM2Lock.hit K = true ↔ K.rst = false ∧ K.err = false ∧ K.fsm = .got42 ∧ K.nz = true ∧ K.data = Config.marker1 := by
  rw [Row.hit_iff, forall_lt_18, all_data_bits K rowM2Lock.mask rowM2Lock.pattern Config.marker1 (by decide) (by decide)]
  simp [rowM2Lock, Key.err, Key.nz, Key.rst, Key.fsm_eq_iff, Fsm.code]
  tauto

theorem rowM2Rehit_hit (K : Key) : rowM2Rehit.hit K = true ↔ K.rst = false ∧ K.err = false ∧ K.fsm = .got42 ∧ K.nz = true ∧ K.data = Config.marker0 := by
  rw [Row.hit_iff, forall_lt_18, all_data_bits K rowM2Rehit.mask rowM2Rehit.pattern Config.marker0 (by decide) (by decide)]
  simp [rowM2Rehit, Key.err, Key.nz, Key.rst, Key.fsm_eq_iff, Fsm.code]
  tauto

theorem rowM2Break_hit (K : Key) : rowM2Break.hit K = true ↔ K.rst = false ∧ K.err = false ∧ K.fsm = .got42 ∧ K.nz = true := by
  rw [Row.hit_iff, forall_lt_18, no_data_bits K rowM2Break.mask rowM2Break.pattern (by decide) (by decide)]
  simp [rowM2Break, Key.err, Key.nz, Key.rst, Key.fsm_eq_iff, Fsm.code]
  tauto

theorem rowPlStall_hit (K : Key) : rowPlStall.hit K = true ↔ K.rst = false ∧ K.err = false ∧ K.fsm = .payload ∧ K.nz = false := by
  rw [Row.hit_iff, forall_lt_18, no_data_bits K rowPlStall.mask rowPlStall.pattern (by decide) (by decide)]
  simp [rowPlStall, Key.err, Key.nz, Key.rst, Key.fsm_eq_iff, Fsm.code]
  tauto

theorem rowPlLast_hit (K : Key) : rowPlLast.hit K = true ↔ K.rst = false ∧ K.err = false ∧ K.fsm = .payload ∧ K.nz = true ∧ K.last = true := by
  rw [Row.hit_iff, forall_lt_18, no_data_bits K rowPlLast.mask rowPlLast.pattern (by decide) (by decide)]
  simp [rowPlLast, Key.err, Key.last, Key.nz, Key.rst, Key.fsm_eq_iff, Fsm.code]
  tauto

theorem rowPlCapture_hit (K : Key) : rowPlCapture.hit K = true ↔ K.rst = false ∧ K.err = false ∧ K.fsm = .payload ∧ K.nz = true ∧ K.last = false := by
  rw [Row.hit_iff, forall_lt_18, no_data_bits K rowPlCapture.mask rowPlCapture.pattern (by decide) (by decide)]
  simp [rowPlCapture, Key.err, Key.last, Key.nz, Key.rst, Key.fsm_eq_iff, Fsm.code]
  tauto

@[simp] theorem rowRst_build (K : Key) : rowRst.build K = some .rst := rfl
@[simp] theorem rowFaultHold_build (K : Key) : rowFaultHold.build K = some .faultHold := rfl
@[simp] theorem rowEmitAccept_build (K : Key) : rowEmitAccept.build K = some .emitAccept := rfl
@[simp] theorem rowEmitHold_build (K : Key) : rowEmitHold.build K = some .emitHold := rfl
@[simp] theorem rowRsvState_build (K : Key) : rowRsvState.build K = buildRsvState K := rfl
@[simp] theorem rowErrIdle_build (K : Key) : rowErrIdle.build K = some .errIdle := rfl
@[simp] theorem rowIdleGate_build (K : Key) : rowIdleGate.build K = some .idleGate := rfl
@[simp] theorem rowIdleWait_build (K : Key) : rowIdleWait.build K = some (.idleWait K.run K.err K.ge32) := rfl
@[simp] theorem rowErrBusy_build (K : Key) : rowErrBusy.build K = buildErrBusy K := rfl
@[simp] theorem rowHuntStall_build (K : Key) : rowHuntStall.build K = some .huntStall := rfl
@[simp] theorem rowHuntHit_build (K : Key) : rowHuntHit.build K = some .huntHit := rfl
@[simp] theorem rowHuntDiscard_build (K : Key) : rowHuntDiscard.build K = some (.huntDiscard K.data) := rfl
@[simp] theorem rowM2Stall_build (K : Key) : rowM2Stall.build K = some .m2Stall := rfl
@[simp] theorem rowM2Lock_build (K : Key) : rowM2Lock.build K = some .m2Lock := rfl
@[simp] theorem rowM2Rehit_build (K : Key) : rowM2Rehit.build K = some .m2Rehit := rfl
@[simp] theorem rowM2Break_build (K : Key) : rowM2Break.build K = some (.m2Break K.data) := rfl
@[simp] theorem rowPlStall_build (K : Key) : rowPlStall.build K = some .plStall := rfl
@[simp] theorem rowPlLast_build (K : Key) : rowPlLast.build K = some (.plLast K.data) := rfl
@[simp] theorem rowPlCapture_build (K : Key) : rowPlCapture.build K = some (.plCapture K.data) := rfl

/-- The first of several rows that matches: the head if it does, else the first of the rest (R87). -/
theorem find_build_cons (r : Row) (rs : List Row) (K : Key) :
    ((r :: rs).find? (fun r => r.hit K)).bind (fun r => r.build K) =
      if r.hit K = true then r.build K else (rs.find? (fun r => r.hit K)).bind (fun r => r.build K) := by
  rw [List.find?_cons]
  cases r.hit K <;> simp

/-- What the decoder reads from a key, by the key's fields. -/
theorem decodeKey_eq (K : Key) :
    decodeKey K =
      if K.rst then some .rst
      else
        match K.fsm with
        | .fault => some .faultHold
        | .emit => some (if K.rdy then .emitAccept else .emitHold)
        | .rsv101 => some (.rsvState .rsv101)
        | .rsv110 => some (.rsvState .rsv110)
        | .idle =>
          some (if K.err && K.run then .errIdle else if K.run && K.ge32 then .idleGate else .idleWait K.run K.err K.ge32)
        | .hunt =>
          some (if K.err then .errBusy .hunt
            else if K.nz then (if K.data = Config.marker0 then .huntHit else .huntDiscard K.data) else .huntStall)
        | .got42 =>
          some (if K.err then .errBusy .got42
            else if K.nz then
              (if K.data = Config.marker1 then .m2Lock else if K.data = Config.marker0 then .m2Rehit else .m2Break K.data)
            else .m2Stall)
        | .payload =>
          some (if K.err then .errBusy .payload
            else if K.nz then (if K.last then .plLast K.data else .plCapture K.data) else .plStall) := by
  unfold decodeKey decodeRows
  simp only [find_build_cons, rowRst_hit, rowFaultHold_hit, rowEmitAccept_hit, rowEmitHold_hit, rowRsvState_hit,
    rowErrIdle_hit, rowIdleGate_hit, rowIdleWait_hit, rowErrBusy_hit, rowHuntStall_hit, rowHuntHit_hit,
    rowHuntDiscard_hit, rowM2Stall_hit, rowM2Lock_hit, rowM2Rehit_hit, rowM2Break_hit, rowPlStall_hit, rowPlLast_hit,
    rowPlCapture_hit]
  cases hr : K.rst
  · cases hf : K.fsm <;> simp [buildErrBusy, buildRsvState, hf] <;> cases K.err <;> cases K.nz <;> (try simp) <;>
      (try split_ifs) <;> simp_all
  · simp

end Sys2Proof
end

