-- ==== Sys2Proof/Laws/State.lean ====
section
/-! SUPPORT. What each named update of State leaves in each field. -/

namespace Sys2Proof.Machine

variable (s : State)

@[simp] theorem State.setFsm_fsm (f : Fsm) : (s.setFsm f).fsm = f := rfl
@[simp] theorem State.setFsm_idx (f : Fsm) : (s.setFsm f).idx = s.idx := rfl
@[simp] theorem State.setFsm_buf (f : Fsm) : (s.setFsm f).buf = s.buf := rfl
@[simp] theorem State.setFsm_faultCode (f : Fsm) : (s.setFsm f).faultCode = s.faultCode := rfl
@[simp] theorem State.setFsm_queue (f : Fsm) : (s.setFsm f).queue = s.queue := rfl
@[simp] theorem State.setFsm_delivered (f : Fsm) : (s.setFsm f).delivered = s.delivered := rfl
@[simp] theorem State.setFsm_taken (f : Fsm) : (s.setFsm f).taken = s.taken := rfl
@[simp] theorem State.setFsm_script (f : Fsm) : (s.setFsm f).script = s.script := rfl
@[simp] theorem State.setFsm_cycle (f : Fsm) : (s.setFsm f).cycle = s.cycle := rfl
@[simp] theorem State.setFsm_params (f : Fsm) : (s.setFsm f).params = s.params := rfl

@[simp] theorem State.setIdx_fsm (v : BitVec 5) : (s.setIdx v).fsm = s.fsm := rfl
@[simp] theorem State.setIdx_idx (v : BitVec 5) : (s.setIdx v).idx = v := rfl
@[simp] theorem State.setIdx_buf (v : BitVec 5) : (s.setIdx v).buf = s.buf := rfl
@[simp] theorem State.setIdx_faultCode (v : BitVec 5) : (s.setIdx v).faultCode = s.faultCode := rfl
@[simp] theorem State.setIdx_queue (v : BitVec 5) : (s.setIdx v).queue = s.queue := rfl
@[simp] theorem State.setIdx_delivered (v : BitVec 5) : (s.setIdx v).delivered = s.delivered := rfl
@[simp] theorem State.setIdx_taken (v : BitVec 5) : (s.setIdx v).taken = s.taken := rfl
@[simp] theorem State.setIdx_script (v : BitVec 5) : (s.setIdx v).script = s.script := rfl
@[simp] theorem State.setIdx_cycle (v : BitVec 5) : (s.setIdx v).cycle = s.cycle := rfl
@[simp] theorem State.setIdx_params (v : BitVec 5) : (s.setIdx v).params = s.params := rfl

@[simp] theorem State.storeByte_fsm (a : Nat) (b : Byte) : (s.storeByte a b).fsm = s.fsm := rfl
@[simp] theorem State.storeByte_idx (a : Nat) (b : Byte) : (s.storeByte a b).idx = s.idx := rfl
@[simp] theorem State.storeByte_buf (a : Nat) (b : Byte) : (s.storeByte a b).buf = s.buf.write a b := rfl
@[simp] theorem State.storeByte_faultCode (a : Nat) (b : Byte) : (s.storeByte a b).faultCode = s.faultCode := rfl
@[simp] theorem State.storeByte_queue (a : Nat) (b : Byte) : (s.storeByte a b).queue = s.queue := rfl
@[simp] theorem State.storeByte_delivered (a : Nat) (b : Byte) : (s.storeByte a b).delivered = s.delivered := rfl
@[simp] theorem State.storeByte_taken (a : Nat) (b : Byte) : (s.storeByte a b).taken = s.taken := rfl
@[simp] theorem State.storeByte_script (a : Nat) (b : Byte) : (s.storeByte a b).script = s.script := rfl
@[simp] theorem State.storeByte_cycle (a : Nat) (b : Byte) : (s.storeByte a b).cycle = s.cycle := rfl
@[simp] theorem State.storeByte_params (a : Nat) (b : Byte) : (s.storeByte a b).params = s.params := rfl

@[simp] theorem State.raise_fsm (c : FaultCode) : (s.raise c).fsm = .fault := rfl
@[simp] theorem State.raise_idx (c : FaultCode) : (s.raise c).idx = s.idx := rfl
@[simp] theorem State.raise_buf (c : FaultCode) : (s.raise c).buf = s.buf := rfl
@[simp] theorem State.raise_faultCode (c : FaultCode) : (s.raise c).faultCode = c := rfl
@[simp] theorem State.raise_queue (c : FaultCode) : (s.raise c).queue = s.queue := rfl
@[simp] theorem State.raise_delivered (c : FaultCode) : (s.raise c).delivered = s.delivered := rfl
@[simp] theorem State.raise_taken (c : FaultCode) : (s.raise c).taken = s.taken := rfl
@[simp] theorem State.raise_script (c : FaultCode) : (s.raise c).script = s.script := rfl
@[simp] theorem State.raise_cycle (c : FaultCode) : (s.raise c).cycle = s.cycle := rfl
@[simp] theorem State.raise_params (c : FaultCode) : (s.raise c).params = s.params := rfl

@[simp] theorem State.resetCore_fsm : s.resetCore.fsm = .idle := rfl
@[simp] theorem State.resetCore_idx : s.resetCore.idx = 0 := rfl
@[simp] theorem State.resetCore_buf : s.resetCore.buf = s.buf := rfl
@[simp] theorem State.resetCore_faultCode : s.resetCore.faultCode = .none := rfl
@[simp] theorem State.resetCore_queue : s.resetCore.queue = s.queue := rfl
@[simp] theorem State.resetCore_delivered : s.resetCore.delivered = s.delivered := rfl
@[simp] theorem State.resetCore_taken : s.resetCore.taken = s.taken := rfl
@[simp] theorem State.resetCore_script : s.resetCore.script = s.script := rfl
@[simp] theorem State.resetCore_cycle : s.resetCore.cycle = s.cycle := rfl
@[simp] theorem State.resetCore_params : s.resetCore.params = s.params := rfl

@[simp] theorem State.handOver_fsm (r : Reading) : (s.handOver r).fsm = s.fsm := rfl
@[simp] theorem State.handOver_idx (r : Reading) : (s.handOver r).idx = s.idx := rfl
@[simp] theorem State.handOver_buf (r : Reading) : (s.handOver r).buf = s.buf := rfl
@[simp] theorem State.handOver_faultCode (r : Reading) : (s.handOver r).faultCode = s.faultCode := rfl
@[simp] theorem State.handOver_queue (r : Reading) : (s.handOver r).queue = s.queue := rfl
@[simp] theorem State.handOver_delivered (r : Reading) : (s.handOver r).delivered = s.delivered := rfl
@[simp] theorem State.handOver_taken (r : Reading) : (s.handOver r).taken = s.taken ++ [r] := rfl
@[simp] theorem State.handOver_script (r : Reading) : (s.handOver r).script = s.script := rfl
@[simp] theorem State.handOver_cycle (r : Reading) : (s.handOver r).cycle = s.cycle := rfl
@[simp] theorem State.handOver_params (r : Reading) : (s.handOver r).params = s.params := rfl

@[simp] theorem State.consume_fsm (b : Byte) (rest : List Byte) : (s.consume b rest).fsm = s.fsm := rfl
@[simp] theorem State.consume_idx (b : Byte) (rest : List Byte) : (s.consume b rest).idx = s.idx := rfl
@[simp] theorem State.consume_buf (b : Byte) (rest : List Byte) : (s.consume b rest).buf = s.buf := rfl
@[simp] theorem State.consume_faultCode (b : Byte) (rest : List Byte) : (s.consume b rest).faultCode = s.faultCode := rfl
@[simp] theorem State.consume_queue (b : Byte) (rest : List Byte) : (s.consume b rest).queue = rest := rfl
@[simp] theorem State.consume_delivered (b : Byte) (rest : List Byte) : (s.consume b rest).delivered = s.delivered ++ [b] := rfl
@[simp] theorem State.consume_taken (b : Byte) (rest : List Byte) : (s.consume b rest).taken = s.taken := rfl
@[simp] theorem State.consume_script (b : Byte) (rest : List Byte) : (s.consume b rest).script = s.script := rfl
@[simp] theorem State.consume_cycle (b : Byte) (rest : List Byte) : (s.consume b rest).cycle = s.cycle := rfl
@[simp] theorem State.consume_params (b : Byte) (rest : List Byte) : (s.consume b rest).params = s.params := rfl

@[simp] theorem State.endCycle_fsm (c : CycleInput) : (s.endCycle c).fsm = s.fsm := rfl
@[simp] theorem State.endCycle_idx (c : CycleInput) : (s.endCycle c).idx = s.idx := rfl
@[simp] theorem State.endCycle_buf (c : CycleInput) : (s.endCycle c).buf = s.buf := rfl
@[simp] theorem State.endCycle_faultCode (c : CycleInput) : (s.endCycle c).faultCode = s.faultCode := rfl
@[simp] theorem State.endCycle_queue (c : CycleInput) : (s.endCycle c).queue =
    s.queue ++ arriving s.params s.cycle s.queue.length c.appended := rfl
@[simp] theorem State.endCycle_delivered (c : CycleInput) : (s.endCycle c).delivered = s.delivered := rfl
@[simp] theorem State.endCycle_taken (c : CycleInput) : (s.endCycle c).taken = s.taken := rfl
@[simp] theorem State.endCycle_script (c : CycleInput) : (s.endCycle c).script = s.script.tail := rfl
@[simp] theorem State.endCycle_cycle (c : CycleInput) : (s.endCycle c).cycle = s.cycle + 1 := rfl
@[simp] theorem State.endCycle_params (c : CycleInput) : (s.endCycle c).params = s.params := rfl

end Sys2Proof.Machine
end

