-- ==== Sys2Proof/Laws/Ops.lean ====
section
/-! SUPPORT. What the shared operations can do: reading after writing `buf`, its canonical form, popping, the edge. -/

namespace Sys2Proof.Machine

@[simp] theorem Memory.read_nil (a : Nat) : Memory.read [] a = none := rfl

theorem Memory.read_insert (m : Memory) (a : Nat) (b : Byte) (x : Nat) :
    (Memory.insert m a b).read x = if x = a then some b else m.read x := by
  induction m with
  | nil => by_cases h : a = x <;> simp [Memory.insert, Memory.read, h, eq_comm]
  | cons c rest ih =>
    obtain ⟨y, d⟩ := c
    unfold Memory.insert
    split
    · by_cases h : a = x <;> simp [Memory.read, h, eq_comm]
    · split
      · subst a
        by_cases h : x = y
        · simp [Memory.read, h]
        · simp [Memory.read, h, Ne.symm h]
      · by_cases h : y = x
        · subst x
          have : ¬ y = a := fun e => by omega
          simp [Memory.read, this]
        · simp [Memory.read, h, ih]

/-- Reading any offset after a write: the byte written there, and every other offset as before (R12, R23). -/
theorem Memory.read_write (m : Memory) (a : Nat) (b : Byte) (x : Nat) :
    (Memory.write m a b).read x = if x = a ∧ a < 30 then some b else m.read x := by
  unfold Memory.write
  split
  · rename_i h
    rw [Memory.read_insert m a b x]
    have : a < 30 := h
    simp [this]
  · rename_i h
    have : ¬ a < 30 := h
    simp [this]

theorem Memory.mem_insert (m : Memory) (a : Nat) (b : Byte) (c : Host.Cell) (h : c ∈ Memory.insert m a b) :
    c = (a, b) ∨ c ∈ m := by
  induction m with
  | nil => simpa [Memory.insert] using h
  | cons e rest ih =>
    obtain ⟨y, d⟩ := e
    unfold Memory.insert at h
    split at h
    · simpa using h
    · split at h
      · rcases List.mem_cons.1 h with h | h
        · exact .inl h
        · exact .inr (List.mem_cons_of_mem _ h)
      · rcases List.mem_cons.1 h with h | h
        · exact .inr (by simp [h])
        · exact (ih h).imp id (List.mem_cons_of_mem _)

theorem Memory.insert_rising (m : Memory) (a : Nat) (b : Byte) (hm : m.Pairwise (fun c d => c.1 < d.1)) :
    (Memory.insert m a b).Pairwise (fun c d => c.1 < d.1) := by
  induction m with
  | nil => simp [Memory.insert]
  | cons e rest ih =>
    obtain ⟨y, d⟩ := e
    obtain ⟨hy, hrest⟩ := List.pairwise_cons.1 hm
    unfold Memory.insert
    split
    · rename_i h
      refine List.pairwise_cons.2 ⟨fun c hc => ?_, hm⟩
      rcases List.mem_cons.1 hc with rfl | hc
      · exact h
      · exact h.trans (hy c hc)
    · split
      · subst a; exact List.pairwise_cons.2 ⟨hy, hrest⟩
      · refine List.pairwise_cons.2 ⟨fun c hc => ?_, ih hrest⟩
        rcases Memory.mem_insert rest a b c hc with rfl | hc
        · show y < a
          omega
        · exact hy c hc

/-- A write keeps the canonical form. -/
theorem Memory.write_wf (m : Memory) (a : Nat) (b : Byte) (hm : m.wf) : (Memory.write m a b).wf := by
  unfold Memory.write
  split
  · rename_i h
    refine ⟨Memory.insert_rising m a b hm.1, fun c hc => ?_⟩
    rcases Memory.mem_insert m a b c hc with rfl | hc
    · exact h
    · exact hm.2 c hc
  · exact hm

theorem State.reset_buf_wf : State.reset.buf.wf := by decide

/-- A popping operation that completes has taken the head of the queue, which is its `src_data`. -/
theorem popByte_next {b : Byte} {k : State → State} {s t : State} (h : popByte b k s = .next t) :
    ∃ rest, s.queue = b :: rest ∧ t = k (s.consume b rest) := by
  unfold popByte at h
  split at h
  · cases h
  · rename_i hd rest hq
    split at h
    · rename_i e
      subst e
      cases h
      exact ⟨rest, hq, rfl⟩
    · cases h

theorem popByte_of_head {b : Byte} {rest : List Byte} {s : State} (k : State → State) (h : s.queue = b :: rest) :
    popByte b k s = .next (k (s.consume b rest)) := by
  simp [popByte, h]

/-- A cycle that ends in a next state ends its operation's next state with the clock edge. -/
theorem finishCycle_next {s t : State} {o : Host.Outcome State Fault Refusal} (h : finishCycle s o = .next t) :
    ∃ u, o = .next u ∧ t = u.endCycle (pins s) := by
  cases o with
  | next u => cases h; exact ⟨u, rfl, rfl⟩
  | fault r => cases h
  | refused r => cases h

@[simp] theorem pins_cons (s : State) (c : CycleInput) (cs : List CycleInput) (h : s.script = c :: cs) : pins s = c := by
  simp [pins, h]

/-- On an unbounded queue every appended byte arrives (R10, R52). -/
theorem arriving_of_unbounded {p : Params} (n held : Nat) (A : List Byte) (hd : p.depth = none) : arriving p n held A = A := by
  simp [arriving, hd]

/-- Where the queue has room for them, the appended bytes arrive (R52). -/
theorem arriving_of_room {p : Params} (n : Nat) {held : Nat} {A : List Byte}
    (hd : ∀ d, p.depth = some d → held + A.length ≤ d) : arriving p n held A = A := by
  unfold arriving
  cases h : p.depth with
  | none => rfl
  | some d =>
    have := hd d h
    exact if_pos (by omega)

@[simp] theorem arriving_nil (p : Params) (n held : Nat) : arriving p n held [] = [] := by
  unfold arriving
  cases p.depth <;> simp

/-- What arrives never takes a queue over its depth (R10). -/
theorem arriving_length {p : Params} {d : Nat} (hd : p.depth = some d) (n held : Nat) (A : List Byte) :
    (arriving p n held A).length ≤ d - held := by
  unfold arriving
  rw [hd]
  dsimp only
  split
  · assumption
  · simp

/-- The gate's comparison and the emptiness test do not depend on the port's width (R10). -/
theorem srcAvail_gate (s : State) : Config.gateMin ≤ srcAvail s ↔ 32 ≤ reported s := by
  have : 2 ^ 6 ≤ 2 ^ s.params.availW := Nat.pow_le_pow_right (by decide) (Nat.le_add_right 6 _)
  unfold srcAvail Config.gateMin
  omega

theorem srcAvail_ne_zero (s : State) : srcAvail s ≠ 0 ↔ reported s ≠ 0 := by
  have : 2 ^ 6 ≤ 2 ^ s.params.availW := Nat.pow_le_pow_right (by decide) (Nat.le_add_right 6 _)
  unfold srcAvail
  omega

theorem reported_le (s : State) : reported s ≤ s.queue.length := Nat.sub_le ..

/-- While bytes are counted, `src_data` is the head of the queue (R50). -/
theorem srcData_cons {s : State} {h : Byte} {rest : List Byte} (hq : s.queue = h :: rest) (hv : reported s ≠ 0) :
    srcData s = h := by
  have := (srcAvail_ne_zero s).2 hv
  simp [srcData, hq, this]

/-- Bytes that are counted are held. -/
theorem exists_head {s : State} (hv : reported s ≠ 0) : ∃ h rest, s.queue = h :: rest := by
  have := reported_le s
  cases hq : s.queue with
  | nil => rw [hq] at this; simp at this; exact absurd this hv
  | cons h rest => exact ⟨h, rest, rfl⟩

end Sys2Proof.Machine
end

