-- ==== Sys2Proof/Laws/PerInstr.lean ====
section
/-! SUPPORT. One lemma per step operation: the key that `encode` gives a well-formed operation meets the condition
`(K & mask) == match` of the operation's own row of spec/30_encoding.md R87. -/

namespace Sys2Proof.Laws.EncodesToOwnRow

open Sys2Proof

/-- The operation's key meets its row's condition. -/
def Statement (i : Instr) : Prop := i.wf = true → encode i &&& i.row.mask = i.row.pattern

theorem rst : Statement .rst := fun _ => by decide
theorem faultHold : Statement .faultHold := fun _ => by decide
theorem emitAccept : Statement .emitAccept := fun _ => by decide
theorem emitHold : Statement .emitHold := fun _ => by decide
theorem rsvState (held : RsvFsm) : Statement (.rsvState held) := fun _ => by cases held <;> decide
theorem errIdle : Statement .errIdle := fun _ => by decide
theorem idleGate : Statement .idleGate := fun _ => by decide
theorem idleWait (run err ge32 : Bool) : Statement (.idleWait run err ge32) := fun _ => by
  cases run <;> cases err <;> cases ge32 <;> decide
theorem errBusy (held : BusyFsm) : Statement (.errBusy held) := fun _ => by cases held <;> decide
theorem huntStall : Statement .huntStall := fun _ => by decide
theorem huntHit : Statement .huntHit := fun _ => by decide
theorem huntDiscard (data : Byte) : Statement (.huntDiscard data) := fun _ => by
  revert data; decide
theorem m2Stall : Statement .m2Stall := fun _ => by decide
theorem m2Lock : Statement .m2Lock := fun _ => by decide
theorem m2Rehit : Statement .m2Rehit := fun _ => by decide
theorem m2Break (data : Byte) : Statement (.m2Break data) := fun _ => by revert data; decide
theorem plStall : Statement .plStall := fun _ => by decide
theorem plLast (data : Byte) : Statement (.plLast data) := fun _ => by revert data; decide
theorem plCapture (data : Byte) : Statement (.plCapture data) := fun _ => by revert data; decide

end Sys2Proof.Laws.EncodesToOwnRow
end

