-- ==== Sys2Proof/Laws/Run.lean ====
section
/-! SUPPORT. Runs, one cycle at a time. -/

namespace Sys2Proof.Machine

@[simp] theorem runFor_zero (s : State) : runFor 0 s = .next s := rfl

/-- A run of `k + 1` cycles is one cycle and then a run of `k`. -/
theorem runFor_succ (k : Nat) (s t : State) :
    runFor (k + 1) s = .next t ↔ ∃ u, step s = .next u ∧ runFor k u = .next t := by
  unfold runFor
  simp only [Host.Core.run]
  change _ ↔ ∃ u, Host.Core.step Sys2Proof.core s = .next u ∧ _
  generalize Host.Core.step Sys2Proof.core s = o
  cases o with
  | next u =>
    constructor
    · exact fun h => ⟨u, rfl, h⟩
    · rintro ⟨v, hv, h⟩
      cases hv
      exact h
  | fault r => constructor <;> intro h <;> [cases h; (obtain ⟨v, hv, _⟩ := h; cases hv)]
  | refused r => constructor <;> intro h <;> [cases h; (obtain ⟨v, hv, _⟩ := h; cases hv)]

end Sys2Proof.Machine
end

