-- ==== Sys2Proof/Laws/Step.lean ====
section
/-! SUPPORT. What a cycle can do, said once: if it ends in a next state, one of the cases of `CycleCase` holds. -/

namespace Sys2Proof.Machine

/-- The cases of a cycle from `s`: which conditions hold and the state `u` before the clock edge. -/
inductive CycleCase (s : State) : State → Prop where
  | reset (hr : (pins s).rst = true) : CycleCase s s.resetCore
  | faultHold (hr : (pins s).rst = false) (hf : s.fsm = .fault) : CycleCase s s
  | accept (hr : (pins s).rst = false) (hf : s.fsm = .emit) (hy : (pins s).rdReady = true) :
      CycleCase s ((s.handOver (readingOf s.csumLast s.buf)).setFsm .idle)
  | hold (hr : (pins s).rst = false) (hf : s.fsm = .emit) (hy : (pins s).rdReady = false) : CycleCase s s
  | reserved (hr : (pins s).rst = false) (hf : s.fsm = .rsv101 ∨ s.fsm = .rsv110) : CycleCase s (s.raise .internal)
  | errIdle (hr : (pins s).rst = false) (hf : s.fsm = .idle) (he : (pins s).srcErr = true) (hu : (pins s).run = true) :
      CycleCase s (s.raise .transport)
  | gate (hr : (pins s).rst = false) (hf : s.fsm = .idle) (he : (pins s).srcErr = false) (hu : (pins s).run = true)
      (hg : 32 ≤ reported s) : CycleCase s (s.setFsm .hunt)
  | wait (hr : (pins s).rst = false) (hf : s.fsm = .idle)
      (hw : (pins s).run = false ∨ ((pins s).srcErr = false ∧ reported s < 32)) : CycleCase s s
  | errBusy (hr : (pins s).rst = false) (hf : s.fsm = .hunt ∨ s.fsm = .got42 ∨ s.fsm = .payload)
      (he : (pins s).srcErr = true) : CycleCase s (s.raise .transport)
  | stall (hr : (pins s).rst = false) (hf : s.fsm = .hunt ∨ s.fsm = .got42 ∨ s.fsm = .payload)
      (he : (pins s).srcErr = false) (hq : reported s = 0) : CycleCase s s
  | hit (hr : (pins s).rst = false) (hf : s.fsm = .hunt) (he : (pins s).srcErr = false) (q : List Byte)
      (hv : reported s ≠ 0) (hq : s.queue = Config.marker0 :: q) : CycleCase s ((s.consume Config.marker0 q).setFsm .got42)
  | discard (hr : (pins s).rst = false) (hf : s.fsm = .hunt) (he : (pins s).srcErr = false) (b : Byte) (q : List Byte)
      (hv : reported s ≠ 0) (hq : s.queue = b :: q) (hb : b ≠ Config.marker0) : CycleCase s (s.consume b q)
  | lock (hr : (pins s).rst = false) (hf : s.fsm = .got42) (he : (pins s).srcErr = false) (q : List Byte)
      (hv : reported s ≠ 0) (hq : s.queue = Config.marker1 :: q) :
      CycleCase s (((s.consume Config.marker1 q).setIdx 0).setFsm .payload)
  | rehit (hr : (pins s).rst = false) (hf : s.fsm = .got42) (he : (pins s).srcErr = false) (q : List Byte)
      (hv : reported s ≠ 0) (hq : s.queue = Config.marker0 :: q) : CycleCase s (s.consume Config.marker0 q)
  | broken (hr : (pins s).rst = false) (hf : s.fsm = .got42) (he : (pins s).srcErr = false) (b : Byte) (q : List Byte)
      (hv : reported s ≠ 0) (hq : s.queue = b :: q) (h1 : b ≠ Config.marker1) (h0 : b ≠ Config.marker0) :
      CycleCase s ((s.consume b q).setFsm .hunt)
  | last (hr : (pins s).rst = false) (hf : s.fsm = .payload) (he : (pins s).srcErr = false) (b : Byte) (q : List Byte)
      (hv : reported s ≠ 0) (hq : s.queue = b :: q) (hi : s.idx = 29) :
      CycleCase s (((s.consume b q).storeByte 29 b).setFsm .emit)
  | capture (hr : (pins s).rst = false) (hf : s.fsm = .payload) (he : (pins s).srcErr = false) (b : Byte) (q : List Byte)
      (hv : reported s ≠ 0) (hq : s.queue = b :: q) (hi : s.idx ≠ 29) :
      CycleCase s (((s.consume b q).storeByte s.idx.toNat b).setIdx (s.idx + 1))

/-- The key of a cycle, field by field, gives the operation of the cycle. -/
theorem selectOp_eq (s : State) :
    selectOp s = decodeKey (mkKey (pins s).rst (pins s).srcErr (pins s).run (decide (32 ≤ reported s))
      (decide (reported s ≠ 0)) (pins s).rdReady s.fsm (s.idx == 29) (srcData s)) := by
  unfold selectOp decodeKeyOf
  simp only [srcAvail_gate s, srcAvail_ne_zero s]

/-- What a cycle can do. -/
theorem step_cases {s t : State} (h : step s = .next t) : ∃ u, CycleCase s u ∧ t = u.endCycle (pins s) := by
  unfold step at h
  rw [selectOp_eq, decodeKey_eq] at h
  simp only [Key.rst_mkKey, Key.err_mkKey, Key.run_mkKey, Key.ge32_mkKey, Key.nz_mkKey, Key.rdy_mkKey, Key.fsm_mkKey,
    Key.last_mkKey, Key.data_mkKey] at h
  by_cases hr : (pins s).rst = true
  · rw [if_pos hr] at h
    obtain ⟨u, hu, rfl⟩ := finishCycle_next h
    cases hu
    exact ⟨_, .reset hr, rfl⟩
  rw [if_neg hr] at h
  rw [Bool.not_eq_true] at hr
  cases hf : s.fsm <;> simp only [hf] at h
  case idle =>
    split_ifs at h with h1 h2 <;> obtain ⟨u, hu, rfl⟩ := finishCycle_next h <;> cases hu
    · rw [Bool.and_eq_true] at h1
      exact ⟨_, .errIdle hr hf h1.1 h1.2, rfl⟩
    · rw [Bool.and_eq_true, decide_eq_true_eq] at h2
      refine ⟨_, .gate hr hf ?_ h2.1 h2.2, rfl⟩
      simpa [h2.1] using h1
    · refine ⟨_, .wait hr hf ?_, rfl⟩
      cases hu : (pins s).run
      · exact .inl rfl
      · refine .inr ⟨by simpa [hu] using h1, by simpa [hu] using h2⟩
  case hunt =>
    by_cases he : (pins s).srcErr = true
    · rw [if_pos he] at h
      obtain ⟨u, hu, rfl⟩ := finishCycle_next h
      cases hu
      exact ⟨_, .errBusy hr (.inl hf) he, rfl⟩
    rw [if_neg he] at h
    rw [Bool.not_eq_true] at he
    by_cases hv : reported s = 0
    · rw [if_neg (by simp [hv])] at h
      obtain ⟨u, hu, rfl⟩ := finishCycle_next h
      cases hu
      exact ⟨_, .stall hr (.inl hf) he hv, rfl⟩
    · obtain ⟨b, q, hq⟩ := exists_head hv
      rw [if_pos (by simp [hv]), srcData_cons hq hv] at h
      split_ifs at h with hb <;> obtain ⟨u, hu, rfl⟩ := finishCycle_next h <;>
        simp only [exec, execHuntHit, execHuntDiscard] at hu <;>
        obtain ⟨q', hq', rfl⟩ := popByte_next hu
      · exact ⟨_, .hit hr hf he _ hv hq', rfl⟩
      · exact ⟨_, .discard hr hf he _ _ hv hq' hb, rfl⟩
  case got42 =>
    by_cases he : (pins s).srcErr = true
    · rw [if_pos he] at h
      obtain ⟨u, hu, rfl⟩ := finishCycle_next h
      cases hu
      exact ⟨_, .errBusy hr (.inr (.inl hf)) he, rfl⟩
    rw [if_neg he] at h
    rw [Bool.not_eq_true] at he
    by_cases hv : reported s = 0
    · rw [if_neg (by simp [hv])] at h
      obtain ⟨u, hu, rfl⟩ := finishCycle_next h
      cases hu
      exact ⟨_, .stall hr (.inr (.inl hf)) he hv, rfl⟩
    · obtain ⟨b, q, hq⟩ := exists_head hv
      rw [if_pos (by simp [hv]), srcData_cons hq hv] at h
      split_ifs at h with h1 h0 <;> obtain ⟨u, hu, rfl⟩ := finishCycle_next h <;>
        simp only [exec, execM2Lock, execM2Rehit, execM2Break] at hu <;>
        obtain ⟨q', hq', rfl⟩ := popByte_next hu
      · exact ⟨_, .lock hr hf he _ hv hq', rfl⟩
      · exact ⟨_, .rehit hr hf he _ hv hq', rfl⟩
      · exact ⟨_, .broken hr hf he _ _ hv hq' h1 h0, rfl⟩
  case payload =>
    by_cases he : (pins s).srcErr = true
    · rw [if_pos he] at h
      obtain ⟨u, hu, rfl⟩ := finishCycle_next h
      cases hu
      exact ⟨_, .errBusy hr (.inr (.inr hf)) he, rfl⟩
    rw [if_neg he] at h
    rw [Bool.not_eq_true] at he
    by_cases hv : reported s = 0
    · rw [if_neg (by simp [hv])] at h
      obtain ⟨u, hu, rfl⟩ := finishCycle_next h
      cases hu
      exact ⟨_, .stall hr (.inr (.inr hf)) he hv, rfl⟩
    · obtain ⟨b, q, hq⟩ := exists_head hv
      rw [if_pos (by simp [hv]), srcData_cons hq hv] at h
      split_ifs at h with hi <;> obtain ⟨u, hu, rfl⟩ := finishCycle_next h <;>
        simp only [exec, execPlLast, execPlCapture] at hu <;>
        obtain ⟨q', hq', rfl⟩ := popByte_next hu
      · exact ⟨_, .last hr hf he _ _ hv hq' (by simpa using hi), rfl⟩
      · exact ⟨_, .capture hr hf he _ _ hv hq' (by simpa using hi), rfl⟩
  case emit =>
    split_ifs at h with hy <;> obtain ⟨u, hu, rfl⟩ := finishCycle_next h <;> cases hu
    · exact ⟨_, .accept hr hf hy, rfl⟩
    · exact ⟨_, .hold hr hf (by simpa using hy), rfl⟩
  case rsv101 =>
    obtain ⟨u, hu, rfl⟩ := finishCycle_next h
    cases hu
    exact ⟨_, .reserved hr (.inl hf), rfl⟩
  case rsv110 =>
    obtain ⟨u, hu, rfl⟩ := finishCycle_next h
    cases hu
    exact ⟨_, .reserved hr (.inr hf), rfl⟩
  case fault =>
    obtain ⟨u, hu, rfl⟩ := finishCycle_next h
    cases hu
    exact ⟨_, .faultHold hr hf, rfl⟩

end Sys2Proof.Machine
end

