-- ==== Sys2Proof/Tests/Slice0.lean ====
section
/-! SUPPORT. Tests on fixed values. Expected results come from the spec: the keys of spec/95_test_vectors.md section 3, the
"Example" and "Corner cases" lines of the operation rules, and the decoder vectors of section 2. The theorems named
`witness_…` show, for each statement with hypotheses, a state and operands that meet them. -/

namespace Sys2Proof.Tests

open Sys2Proof Sys2Proof.Machine

/-! ## Helpers -/

/-- The inputs of a cycle with nothing appended. -/
def inp (rst err run rdy : Bool) : CycleInput :=
  { rst := rst, run := run, srcErr := err, rdReady := rdy, withheld := 0, emptyData := 0, appended := [] }

/-- `run = 1`, every other level 0. -/
def going : CycleInput := inp false false true false

/-- A state with the given registers, queue and inputs of this cycle. -/
def st (f : Fsm) (idx : BitVec 5) (q : List Byte) (c : CycleInput) : State :=
  { State.reset with fsm := f, idx := idx, queue := q, script := [c] }

/-- A fact about the next state of an outcome. -/
def after (o : Host.Outcome State Fault Refusal) (p : State → Bool) : Bool :=
  match o with
  | .next t => p t
  | _ => false

/-- `fsm`, `fault_code` and the number of bytes popped after a step. -/
def core (o : Host.Outcome State Fault Refusal) : Option (Fsm × FaultCode × Nat) :=
  match o with
  | .next t => some (t.fsm, t.faultCode, t.delivered.length)
  | _ => none

/-- Payload F1 of spec/95_test_vectors.md. -/
def f1 : List Byte := [0x00, 0x1C, 0x00, 0x05, 0x00, 0x07, 0x00, 0x09] ++ List.replicate 20 0x00 ++ [0x01, 0x30]

/-- Payload F2. -/
def f2 : List Byte :=
  [0x00, 0x1C, 0x00, 0x0A, 0x00, 0x0F, 0x00, 0x12, 0x00, 0x0A, 0x00, 0x0F, 0x00, 0x12, 0x07] ++
    [0x26, 0x02, 0x18, 0x00, 0x61, 0x00, 0x0A, 0x00, 0x02, 0x00, 0x01, 0x97, 0x00, 0x02, 0xBD]

/-- Payload F3: F2 with `error_code = 1`. -/
def f3 : List Byte := f2.set 27 0x01

/-- The cells of `buf` that hold a list of bytes from offset 0. -/
def cells (l : List Byte) : Memory := l.zipIdx.map fun c => (c.2, c.1)

/-- F1 on offer. -/
def emitState : State :=
  { State.reset with
    fsm := .emit
    idx := 29
    buf := cells f1
    delivered := [0x42, 0x4D] ++ f1
    script := [inp false false true false] }

/-- F1 captured up to offset 11. -/
def payloadState : State :=
  { State.reset with
    fsm := .payload
    idx := 12
    buf := cells (f1.take 12)
    queue := f1.drop 12
    delivered := [0x42, 0x4D] ++ f1.take 12
    script := [going] }

/-! ## Well-formedness: ill-formed operations are refused -/

theorem test_wf_idleWait_error : (Instr.idleWait true true false).wf = false := by decide
theorem test_wf_idleWait_gate : (Instr.idleWait true false true).wf = false := by decide
theorem test_wf_huntDiscard_marker : (Instr.huntDiscard 0x42).wf = false := by decide
theorem test_wf_m2Break_lock : (Instr.m2Break 0x4D).wf = false := by decide
theorem test_wf_m2Break_rehit : (Instr.m2Break 0x42).wf = false := by decide
theorem test_wf_accepted :
    (Instr.idleWait true false false).wf && (Instr.idleWait false true true).wf && (Instr.huntDiscard 0x4D).wf &&
      (Instr.m2Break 0x00).wf = true := by decide

/-! ## Decoding: every row of the table of spec/95_test_vectors.md section 3 -/

theorem test_decode_idleWait : decodeKey 0x0A042 = some (.idleWait true false false) := by decide
theorem test_decode_idleGate : decodeKey 0x0E042 = some .idleGate := by decide
theorem test_decode_idleWait_no_run : decodeKey 0x16000 = some (.idleWait false true true) := by decide
theorem test_decode_errIdle : decodeKey 0x1E000 = some .errIdle := by decide
theorem test_decode_huntStall : decodeKey 0x08200 = some .huntStall := by decide
theorem test_decode_huntHit : decodeKey 0x0E242 = some .huntHit := by decide
theorem test_decode_huntDiscard : decodeKey 0x0224D = some (.huntDiscard 0x4D) := by decide
theorem test_decode_m2Lock : decodeKey 0x0244D = some .m2Lock := by decide
theorem test_decode_m2Rehit : decodeKey 0x02442 = some .m2Rehit := by decide
theorem test_decode_m2Break : decodeKey 0x02400 = some (.m2Break 0x00) := by decide
theorem test_decode_m2Stall : decodeKey 0x00400 = some .m2Stall := by decide
theorem test_decode_plCapture : decodeKey 0x0264D = some (.plCapture 0x4D) := by decide
theorem test_decode_plLast : decodeKey 0x02730 = some (.plLast 0x30) := by decide
theorem test_decode_plStall : decodeKey 0x00700 = some .plStall := by decide
theorem test_decode_errBusy : decodeKey 0x12642 = some (.errBusy .payload) := by decide
theorem test_decode_emitHold : decodeKey 0x10800 = some .emitHold := by decide
theorem test_decode_emitAccept : decodeKey 0x01800 = some .emitAccept := by decide
theorem test_decode_faultHold : decodeKey 0x0EE00 = some .faultHold := by decide
theorem test_decode_rsv101 : decodeKey 0x00A00 = some (.rsvState .rsv101) := by decide
theorem test_decode_rsv110 : decodeKey 0x10C00 = some (.rsvState .rsv110) := by decide
theorem test_decode_rst : decodeKey 0x30E00 = some .rst := by decide

/-- The key of GOT42 with a `0x4D` at the head, bit by bit (R86): rst, err, run, ge32, nz, rdy, fsm, last, data. -/
theorem test_decode_bits :
    decodeKey (0b0#1 ++ 0b0#1 ++ 0b0#1 ++ 0b0#1 ++ 0b1#1 ++ 0b0#1 ++ 0b010#3 ++ 0b0#1 ++ 0b01001101#8) = some .m2Lock := by
  decide

/-- Three bytes, the least significant first. -/
theorem test_decodeBytes : (decodeBytes [0x30, 0x27, 0x00]).toOption = some (.plLast 0x30) := by decide
theorem test_decodeBytes_truncated : decodeBytes [0x30, 0x27] = .error .truncated := by rfl
theorem test_decodeBytes_above : decodeBytes [0x00, 0x00, 0x04] = .error .bitsAboveKey := by rfl
theorem test_decodeTableWord : decodeTableWord 18 0x02442 = some .m2Rehit := by decide
theorem test_encode : encode (.huntDiscard 0x4D) = 0x0224D := by decide

/-- The fetch word is the next decode key, also of a row whose match leaves `nz` out (row 7, `0x0C000`). -/
theorem test_withFetchWord :
    decodeKeyOf (State.reset.withFetchWord 18 0x0244D) = 0x0244D ∧
      selectOp (State.reset.withFetchWord 18 0x0C000) = some .idleGate := by decide

/-! ## One cycle of each operation, from the "Example" and "Corner cases" lines -/

theorem test_idleWait : core (step (st .idle 0 (List.replicate 31 0x42) going)) = some (.idle, .none, 0) := by decide
theorem test_idleWait_error_without_run :
    core (step (st .idle 0 (List.replicate 32 0x42) (inp false true false false))) = some (.idle, .none, 0) := by decide
theorem test_idleGate : core (step (st .idle 0 (List.replicate 32 0x42) going)) = some (.hunt, .none, 0) := by decide
theorem test_huntStall : core (step (st .hunt 0 [] going)) = some (.hunt, .none, 0) := by decide
theorem test_huntDiscard : core (step (st .hunt 0 [0x00] going)) = some (.hunt, .none, 1) := by decide
theorem test_huntDiscard_4D : core (step (st .hunt 0 [0x4D] going)) = some (.hunt, .none, 1) := by decide
theorem test_huntHit : core (step (st .hunt 0 [0x42] going)) = some (.got42, .none, 1) := by decide
theorem test_m2Stall : core (step (st .got42 0 [] going)) = some (.got42, .none, 0) := by decide
theorem test_m2Lock :
    after (step (st .got42 17 [0x4D] going)) (fun t => t.fsm == .payload && t.idx == 0 && t.buf == []) = true := by decide
theorem test_m2Break : core (step (st .got42 0 [0x00] going)) = some (.hunt, .none, 1) := by decide
theorem test_m2Rehit : core (step (st .got42 0 [0x42] going)) = some (.got42, .none, 1) := by decide
theorem test_plStall : after (step (st .payload 7 [] going)) (fun t => t.fsm == .payload && t.idx == 7) = true := by decide
theorem test_plCapture :
    after (step (st .payload 0 [0x00] going)) (fun t => t.buf.read 0 == some 0x00 && t.idx == 1 && t.queue == []) = true := by
  decide
/-- "whose write to `buf[idx]` then falls outside `buf` and has no effect, and leaves `idx` to wrap" (R23). -/
theorem test_plCapture_wraps :
    after (step (st .payload 31 [0x55] going)) (fun t => t.buf == [] && t.idx == 0 && t.fsm == .payload) = true := by decide
theorem test_plLast :
    after (step (st .payload 29 [0x30] going)) (fun t => t.buf.read 29 == some 0x30 && rdValid t && t.idx == 29) = true := by
  decide
theorem test_emitHold :
    after (step emitState) (fun t => t.fsm == .emit && rdData t == rdData emitState) = true := by decide
theorem test_emitHold_ignores_error :
    core (step { emitState with script := [inp false true true false] }) = some (.emit, .none, 32) := by decide
theorem test_emitAccept :
    after (step { emitState with script := [inp false true true true] })
      (fun t => !rdValid t && t.fsm == .idle && t.taken.map (·.lane1) == [5]) = true := by decide
theorem test_errIdle :
    core (step (st .idle 0 (List.replicate 40 0) (inp false true true false))) = some (.fault, .transport, 0) := by decide
theorem test_errBusy :
    core (step (st .payload 12 [0x42] (inp false true false false))) = some (.fault, .transport, 0) := by decide
theorem test_errBusy_hunt :
    core (step (st .hunt 0 [0x42] (inp false true false false))) = some (.fault, .transport, 0) := by decide
theorem test_faultHold :
    core (step { st .fault 0 (List.replicate 64 0) going with faultCode := .transport }) = some (.fault, .transport, 0) := by
  decide
theorem test_rsvState : core (step (st .rsv101 0 [] going)) = some (.fault, .internal, 0) := by decide
theorem test_rsvState_110_error :
    core (step (st .rsv110 0 [0x42] (inp false true true true))) = some (.fault, .internal, 0) := by decide
theorem test_rst :
    after (step (st .payload 17 [0x42] (inp true true true true)))
      (fun t => t.fsm == .idle && t.idx == 0 && t.queue == [0x42]) = true := by decide
theorem test_rst_clears_fault :
    core (step { st .fault 3 [] (inp true true false false) with faultCode := .transport }) = some (.idle, .none, 0) := by
  decide
/-- "a reset in EMIT drops the Reading on offer" (R212), also with `rd_ready = 1` (log entry 17). -/
theorem test_rst_in_emit :
    after (step { emitState with script := [inp true false true true] }) (fun t => t.fsm == .idle && t.taken == []) = true := by
  decide
/-- A source that leaves a byte out of its count "delays the gate and causes stalls" (R220). -/
theorem test_withheld_stalls :
    core (step (st .hunt 0 [0x42] { going with withheld := 1 })) = some (.hunt, .none, 0) ∧
      core (step (st .idle 0 (List.replicate 32 0x42) { going with withheld := 1 })) = some (.idle, .none, 0) := by decide
/-- A byte appended in a cycle is visible in the next (R52). -/
theorem test_append :
    after (step { st .hunt 0 [0x42] going with script := [{ going with appended := [0x4D, 0x01] }, going] })
      (fun t => srcAvail t == 2 && srcData t == 0x4D) = true := by decide

/-- A queue at a depth of 32 with one pop and one append stays full, and every byte arrives (R10, R52). -/
theorem test_append_to_full :
    after (step { st .hunt 0 (List.replicate 32 0) { going with appended := [0x4D] } with
        params := { Params.base with srcDepth := .bounded 0 } })
      (fun t => t.queue == List.replicate 31 0 ++ [0x4D]) = true := by decide

/-! ## Decoder vectors D1, D2, D3, D5 -/

theorem test_vector_D1 :
    (readingOfPayload 26 f1).csumDecl = 0x0130 ∧ (readingOfPayload 26 f1).csumCalc = 0x0130 ∧ (readingOfPayload 26 f1).csumOk = true ∧
      pm1_0Standard (readingOfPayload 26 f1) = 5 ∧ pm2_5Standard (readingOfPayload 26 f1) = 7 ∧
      pm10Standard (readingOfPayload 26 f1) = 9 ∧ frameLength (readingOfPayload 26 f1) = 28 := by decide
theorem test_vector_D2 :
    (List.range 15).map (laneOf (readingOfPayload 26 f2)) =
        [0x001C, 0x000A, 0x000F, 0x0012, 0x000A, 0x000F, 0x0012, 0x0726, 0x0218, 0x0061, 0x000A, 0x0002, 0x0001, 0x9700,
          0x02BD] ∧
      (readingOfPayload 26 f2).version = 0x97 ∧ (readingOfPayload 26 f2).csumOk = true := by decide
theorem test_vector_D3 :
    (readingOfPayload 26 f3).errorCode = 0x01 ∧ (readingOfPayload 26 f3).csumCalc = 0x02BD ∧ (readingOfPayload 26 f3).csumOk = true ∧
      (readingOfPayload 27 f3).csumCalc = 0x02BE ∧ (readingOfPayload 27 f3).csumOk = false := by decide
/-- P4's second Reading "With `CSUM_LAST = 27`", handed over by a machine instantiated so. -/
theorem test_vector_P4_at27 :
    after (step { emitState with
        buf := cells f3, script := [inp false false true true], params := { Params.base with csumLast := .at27 } })
      (fun t => t.taken.map (fun r => (r.csumCalc, r.csumOk)) == [(0x02BE, false)]) = true := by decide
theorem test_vector_D5 :
    (readingOfPayload 26 (List.replicate 30 0)).csumCalc = 0x00FF ∧
      (readingOfPayload 26 (List.replicate 30 0)).csumOk = false := by decide

/-! ## Memory -/

theorem test_write_form :
    (Memory.write (Memory.write [] 5 0xAA) 2 0xBB) = [(2, 0xBB), (5, 0xAA)] ∧ Memory.write [] 30 0xAA = [] := by decide

/-! ## Witnesses: a state and operands that meet each statement's hypotheses -/

theorem witness_EncodeDecodeRoundTrip :
    (Instr.idleWait true false false).wf = true ∧ (Instr.huntDiscard 0xFF).wf = true ∧ (Instr.m2Break 0x4E).wf = true ∧
      (Instr.plCapture 0x00).wf = true ∧ (Instr.errBusy .got42).wf = true := by decide

theorem witness_DecodedOperationFitsItsKey :
    decodeKey 0x16000 = some (.idleWait false true true) ∧
      (decodeKey 0x02242 = some .huntHit ∧ popData .huntHit = some 0x42) ∧ decodeKey 0x10400 = some (.errBusy .got42) ∧
      decodeKey 0x00C00 = some (.rsvState .rsv110) := by decide

theorem witness_PlacedKeyIsTheKeyOfTheCycle :
    (Key.ge32 0x0E042 = true → Key.nz 0x0E042 = true) ∧ Key.ge32 0x0E042 = true ∧
      (Key.ge32 0x00700 = true → Key.nz 0x00700 = true) := by decide

theorem witness_StepRunsTheDecodedOperation :
    decodeKey (decodeKeyOf (st .hunt 0 [0x42] going)) = some .huntHit ∧
      ∃ t, exec .huntHit (st .hunt 0 [0x42] going) = .next t := ⟨by decide, _, rfl⟩

theorem witness_CycleComposesWithTheQueue :
    ∃ t, step (st .hunt 0 [0x42, 0x4D] going) = .next t ∧ (st .hunt 0 [0x42, 0x4D] going).queue = 0x42 :: [0x4D] ∧
      (pins (st .hunt 0 [0x42, 0x4D] going)).withheld = 0 ∧ srcAvail (st .hunt 0 [0x42, 0x4D] going) ≠ 0 :=
  ⟨_, rfl, rfl, rfl, by decide⟩

theorem witness_SrcPopRemovesTheHead :
    (selectOp (st .hunt 0 [0x42] going) = some .huntHit ∧ srcPop (st .hunt 0 [0x42] going) = true ∧
      ∃ t, exec .huntHit (st .hunt 0 [0x42] going) = .next t) ∧
    (selectOp (st .hunt 0 [] going) = some .huntStall ∧ srcPop (st .hunt 0 [] going) = false ∧
      ∃ t, exec .huntStall (st .hunt 0 [] going) = .next t) :=
  ⟨⟨by decide, by decide, _, rfl⟩, by decide, by decide, _, rfl⟩

theorem witness_StreamIsKeptInOrder :
    (st .hunt 0 [0x42] going).script = [going] ++ [] ∧ Fits (st .hunt 0 [0x42] going) [going] ∧
      ∃ t, runFor [going].length (st .hunt 0 [0x42] going) = .next t := ⟨rfl, fun _ h => (by cases h), _, rfl⟩

theorem witness_ResetFromAnyState :
    (pins (st .payload 17 [0x42] (inp true true true true))).rst = true ∧
      ∃ t, exec .rst (st .rsv110 31 [] going) = .next t := ⟨rfl, _, rfl⟩

theorem witness_HuntConsumesOneByte :
    (st .hunt 0 [0x42] going).queue = 0x42 :: [] ∧ (st .hunt 0 [0x41, 0x00] going).queue = 0x41 :: [0x00] := by decide

theorem witness_HalfMarkerConsumesOneByte :
    (st .got42 0 [0x4D] going).queue = 0x4D :: [] ∧ (st .got42 0 [0x42] going).queue = 0x42 :: [] ∧
      (st .got42 0 [0x4E] going).queue = 0x4E :: [] := by decide

theorem witness_PayloadByteIsStored :
    ((st .payload 0 [0x11] going).queue = 0x11 :: [] ∧ (st .payload 0 [0x11] going).idx.toNat < 30) ∧
      (st .payload 29 [0x30] going).queue = 0x30 :: [] ∧ (st .payload 29 [0x30] going).idx.toNat < 30 := by decide

theorem witness_IndexOutsideTheBufferWraps :
    ((st .payload 30 [0x11] going).queue = 0x11 :: [] ∧ (st .payload 30 [0x11] going).idx = 30) ∧
      (st .payload 31 [0x11] going).queue = 0x11 :: [] ∧ (st .payload 31 [0x11] going).idx = 31 := by decide

theorem witness_AcceptHandsTheReadingOver : emitState.fsm = .emit := rfl

theorem witness_PopWithoutItsByteStops :
    popData (.plLast 0x30) = some 0x30 ∧ (st .payload 29 [] going).queue = [] ∧
      (st .payload 29 [0x31] going).queue = 0x31 :: [] ∧ (0x31 : Byte) ≠ 0x30 := by decide

theorem witness_OnlyPayloadOperationsWriteBuf :
    (∃ t, exec .errIdle payloadState = .next t ∧ storedOffset .errIdle payloadState = none) ∧
    (∃ t, exec (.plCapture 0) payloadState = .next t ∧ storedOffset (.plCapture 0) payloadState = some 12 ∧ 0 ≠ 12) ∧
    (∃ t, exec (.plLast 0x30) (st .payload 29 [0x30] going) = .next t ∧
      storedOffset (.plLast 0x30) (st .payload 29 [0x30] going) = some 29 ∧ 29 < 30) :=
  ⟨⟨_, rfl, rfl⟩, ⟨_, rfl, rfl, by decide⟩, _, rfl, rfl, by decide⟩

theorem witness_OnlyFaultsAndResetWriteFaultCode : ∃ t, exec (.errBusy .payload) payloadState = .next t := ⟨_, rfl⟩

theorem witness_OnlyLockCaptureAndResetWriteIdx :
    (∃ t, exec (.plCapture 0) payloadState = .next t) ∧ (∃ t, step payloadState = .next t) ∧
      ∃ t, step (st .got42 31 [0x4D] going) = .next t := ⟨⟨_, rfl⟩, ⟨_, rfl⟩, _, rfl⟩

theorem witness_AgentsChangeOnlyByTheirOperations :
    (∃ t, exec .emitHold emitState = .next t ∧ popData .emitHold = none) ∧
    (∃ t, exec (.plCapture 0) payloadState = .next t ∧ popData (.plCapture 0) = some 0) :=
  ⟨⟨_, rfl, rfl⟩, _, rfl, rfl⟩

theorem witness_ControllerMovesAlongItsGraph :
    (pins payloadState).rst = false ∧ ∃ t, step payloadState = .next t := ⟨rfl, _, rfl⟩

theorem witness_OfferIsTheCapturedPayload : Inv emitState ∧ emitState.fsm = .emit := by
  refine ⟨⟨by decide, by decide, by decide, by decide, ?_, ?_, fun _ => ⟨f1, by decide, ⟨[], by decide⟩, ?_⟩,
    fun _ h => (by cases h)⟩, rfl⟩
  · exact fun h => absurd h (by decide)
  · exact fun h => absurd h (by decide)
  · unfold Holds; decide

theorem witness_EveryStepKeepsInv : Inv payloadState ∧ ∃ t, step payloadState = .next t := by
  refine ⟨⟨by decide, by decide, by decide, by decide, ?_, fun _ => ⟨by decide, f1.take 12, by decide, ⟨[], by decide⟩, ?_⟩, ?_,
    fun _ h => (by cases h)⟩, _, rfl⟩
  · exact fun h => absurd h (by decide)
  · unfold Holds; decide
  · exact fun h => absurd h (by decide)

theorem witness_CheckedDecoderFaultsOnUnwrittenBytes :
    (∀ i, i < 30 → Memory.read (cells f1) i ≠ none) ∧
    (Memory.read [] 0 = none) ∧
    (Memory.read (cells (f1.take 29)) 29 = none ∧ ∀ j, j < 29 → Memory.read (cells (f1.take 29)) j ≠ none) := by decide

theorem witness_HuntBeginsAtTheGate :
    ∃ t, step (st .idle 0 (List.replicate 32 0x42) going) = .next t ∧ t.fsm = .hunt := ⟨_, rfl, rfl⟩

theorem witness_NoPopOutsideTheSearchAndCapture :
    emitState.fsm ≠ .hunt ∧ emitState.fsm ≠ .got42 ∧ emitState.fsm ≠ .payload ∧ ∃ t, step emitState = .next t :=
  ⟨by decide, by decide, by decide, _, rfl⟩

theorem witness_HalfMarkerFollowsTheByte :
    ((st .hunt 0 [0x42] going).fsm = .hunt ∧ srcPop (st .hunt 0 [0x42] going) = true ∧
      ∃ t, step (st .hunt 0 [0x42] going) = .next t) ∧
    ((st .got42 9 [0x4D] going).fsm = .got42 ∧ srcPop (st .got42 9 [0x4D] going) = true ∧
      ∃ t, step (st .got42 9 [0x4D] going) = .next t ∧ t.fsm = .payload) :=
  ⟨⟨rfl, by decide, _, rfl⟩, rfl, by decide, _, rfl, rfl⟩

/-- The junk is the false start of vector S3: one `0x42` right before the true marker. -/
theorem witness_FirstMarkerIsFoundAndItsPayloadOffered :
    ∃ s : State, s.fsm = .idle ∧ s.queue = [0x42] ++ wireFrame f1 ++ [0x99] ∧ f1.length = 30 ∧ NoMarkerIn [0x42] ∧
      s.script = (going :: List.replicate 33 going) ++ [] ∧
      (List.replicate 33 going).length = ([0x42] : List Byte).length + 32 ∧ going.run = true ∧
      (∀ d ∈ going :: List.replicate 33 going, Quiet d ∧ d.withheld = 0) ∧ Fits s (going :: List.replicate 33 going) := by
  refine ⟨{ State.reset with
    queue := [0x42] ++ wireFrame f1 ++ [0x99], script := going :: List.replicate 33 going }, rfl, rfl, by decide, ?_, by simp,
    by simp, rfl, ?_, fun _ h => (by cases h)⟩
  · intro before tail h
    have := congrArg List.length h
    simp at this
    omega
  · intro d hd
    simp only [List.mem_cons, List.mem_replicate] at hd
    rcases hd with rfl | ⟨_, rfl⟩ <;> exact ⟨⟨rfl, rfl⟩, rfl⟩

theorem witness_BackToBackFramesTake34CyclesEach :
    ∃ (s : State) (cs : List CycleInput), s.fsm = .idle ∧ s.queue = [f1, f2].flatMap wireFrame ++ [] ∧
      (∀ p ∈ [f1, f2], p.length = 30) ∧ s.script = cs ++ [] ∧ cs.length = 34 * [f1, f2].length ∧
      (∀ c ∈ cs, Quiet c ∧ c.withheld = 0 ∧ c.run = true ∧ c.rdReady = true) ∧ Fits s cs := by
  refine ⟨{ State.reset with
    queue := [f1, f2].flatMap wireFrame ++ [], script := List.replicate 68 (inp false false true true) ++ [] },
    List.replicate 68 (inp false false true true), rfl, rfl, by decide, rfl, by simp, ?_, fun _ h => (by cases h)⟩
  intro c hc
  rw [List.mem_replicate] at hc
  rw [hc.2]
  exact ⟨⟨rfl, rfl⟩, rfl, rfl, rfl⟩

theorem witness_QuietStepsFollowTheStream :
    FollowsStream payloadState ∧ Quiet (pins payloadState) ∧ ∃ t, step payloadState = .next t := by
  refine ⟨⟨by decide, by decide, f1.take 12, by decide, by decide, ?_⟩, ⟨rfl, rfl⟩, _, rfl⟩
  unfold Holds; decide

/-- 32 bytes wait; the first run passes the gate and pops one byte, the second is held back for a cycle before it does. -/
theorem witness_ReadingsDependOnTheStreamAlone :
    ∃ s₀ t₀ s t : State, s₀.fsm = .idle ∧ s₀.delivered = [] ∧ s₀.taken = [] ∧ s₀.script = [going, going] ∧ Quiet going ∧
      t₀.fsm = .idle ∧ t₀.delivered = [] ∧ t₀.taken = [] ∧ t₀.script = [inp false false false false, going, going, going] ∧
      Quiet (inp false false false false) ∧ s₀.params.csumLast = t₀.params.csumLast ∧
      runFor 2 s₀ = .next s ∧ runFor 4 t₀ = .next t ∧ s.delivered = [0x42] ∧ t.delivered = [0x42, 0x4D] ∧
      s.delivered <+: t.delivered :=
  ⟨{ State.reset with queue := wireFrame f1, script := [going, going] },
    { State.reset with queue := wireFrame f1, script := [inp false false false false, going, going, going] },
    _, _, rfl, rfl, rfl, rfl, ⟨rfl, rfl⟩, rfl, rfl, rfl, rfl, ⟨rfl, rfl⟩, rfl, rfl, rfl, rfl, rfl, [0x4D], rfl⟩

/-- A source with no byte, and one that leaves its one byte out of its count. -/
theorem witness_StallsLastUntilAByteArrives :
    ((st .got42 0 [] going).fsm = .got42 ∧ (st .got42 0 [] going).script = [going] ++ [] ∧
      Quiet going ∧ going.appended = [] ∧ (st .got42 0 [] going).queue.length ≤ going.withheld) ∧
    ((st .payload 7 [0x42] { going with withheld := 1 }).fsm = .payload ∧ Quiet { going with withheld := 1 } ∧
      (st .payload 7 [0x42] { going with withheld := 1 }).queue.length ≤ { going with withheld := 1 }.withheld) :=
  ⟨⟨rfl, rfl, ⟨rfl, rfl⟩, rfl, le_rfl⟩, rfl, ⟨rfl, rfl⟩, le_rfl⟩

theorem witness_OfferIsStableUntilAccepted :
    emitState.fsm = .emit ∧ emitState.script = [inp false false true false] ++ [] ∧
      (∀ c ∈ [inp false false true false], c.rst = false ∧ c.rdReady = false) ∧
      Fits emitState [inp false false true false] := by
  refine ⟨rfl, rfl, fun c hc => ?_, fun _ h => (by cases h)⟩
  rw [List.mem_singleton.mp hc]
  exact ⟨rfl, rfl⟩

theorem witness_FaultLastsUntilReset :
    (st .fault 0 [0x42] (inp false true true true)).fsm = .fault ∧
      (st .fault 0 [0x42] (inp false true true true)).script = [inp false true true true] ++ [] ∧
      (pins (st .fault 0 [0x42] (inp false true true true))).rst = false ∧
      ∀ c ∈ [inp false true true true], c.rst = false := by decide

theorem witness_TransportErrorIsTakenWhereTheSourceIsRead :
    ((pins (st .idle 0 [] (inp false true true false))).rst = false ∧
      (pins (st .idle 0 [] (inp false true true false))).srcErr = true ∧
      (st .idle 0 [] (inp false true true false)).fsm = .idle ∧
      (pins (st .idle 0 [] (inp false true true false))).run = true) ∧
    ((pins (st .payload 0 [0x42] (inp false true false false))).rst = false ∧
      (pins (st .payload 0 [0x42] (inp false true false false))).srcErr = true ∧
      (st .payload 0 [0x42] (inp false true false false)).fsm = .payload) ∧
    emitState.fsm = .emit ∧ State.reset.fsm = .idle ∧ (inp false false false false).run = false := by decide

theorem witness_RunIsReadOnlyInIdle : emitState.fsm ≠ .idle ∧ payloadState.fsm ≠ .idle := by decide

theorem witness_ReadyIsReadOnlyInEmit : State.reset.fsm ≠ .emit ∧ payloadState.fsm ≠ .emit := by decide

theorem witness_ResetForgetsTheAttempt : (pins { payloadState with script := [inp true false true true] }).rst = true := rfl

theorem witness_LaneIsBigEndian : 0 < 15 ∧ 14 < 15 := by decide

theorem witness_ReadingDependsOnThirtyBytes :
    (∀ i, i < 30 → (fun i => f1.getD i 0) i = (fun i => (f1 ++ [0xFF]).getD i 0) i) ∧
      14 < 15 ∧ (fun i => f2.getD i 0) (2 * 14) = (fun i => (f1.take 28 ++ [0x02, 0xBD]).getD i 0) (2 * 14) ∧
      (fun i => f2.getD i 0) (2 * 14 + 1) = (fun i => (f1.take 28 ++ [0x02, 0xBD]).getD i 0) (2 * 14 + 1) := by decide

theorem witness_ChecksumSumsMarkerAndPayload :
    emitState.fsm = .emit ∧ State.reset.params.csumLast = .at26 ∧ { Params.base with csumLast := .at27 }.csumLast = .at27 := by
  decide

theorem witness_ValidityIsEqualityAndZeroIsInvalid : lane (fun _ => 0) 14 = 0 := by decide

/-- F1 with one byte changed inside the sum (offsets 0 and 26), and with the two changes of F7. -/
theorem witness_SingleByteChangeIsDetected :
    csumOk 26 (fun i => f1.getD i 0) = true ∧ csumOk 27 (fun i => f1.getD i 0) = true ∧
      (0 ≤ 26 ∧ (0x01 : Byte) ≠ f1.getD 0 0) ∧ (26 ≤ 26 ∧ (0x01 : Byte) ≠ f1.getD 26 0) ∧
      (3 ≤ 26 ∧ 5 ≤ 26 ∧ 3 ≠ 5 ∧
        (0x06 : Byte).toNat + (0x06 : Byte).toNat = (f1.getD 3 0).toNat + (f1.getD 5 0).toNat) := by decide

theorem witness_ResetInEmitHandsNothingOver :
    emitState.fsm = .emit ∧ (pins { emitState with script := [inp true false true true] }).rst = true ∧
      ∃ t, step { emitState with script := [inp true false true true] } = .next t := ⟨rfl, rfl, _, rfl⟩

/-- A full queue of the least depth, and one append into it in a cycle that pops. -/
theorem witness_QueueKeepsItsDepth :
    (∀ d, ({ Params.base with srcDepth := .bounded 0 } : Params).depth = some d → 31 + [(0x4D : Byte)].length ≤ d) ∧
      ({ Params.base with srcDepth := .bounded 0 } : Params).depth = some 32 ∧
      ∃ t, step { st .hunt 0 (List.replicate 32 0) { going with appended := [0x4D] } with
        params := { Params.base with srcDepth := .bounded 0 } } = .next t :=
  ⟨fun d h => (by cases h; decide), rfl, _, rfl⟩

end Sys2Proof.Tests
end

/-! # The closed system of `00_scope.md`: one cycle, its key and its queue

An operation is its pop, if it has one, and then its register writes; a cycle is one operation and then the clock edge.
What follows says this once and reads the statements of the family off it. -/

namespace Sys2Proof.Machine

/-! ## An operation: a pop, if any, and then the register writes -/

/-- The register writes of an operation, without its pop (R12, R13). -/
def registerWrites (i : Instr) (s : State) : State :=
  match i with
  | .rst => s.resetCore
  | .emitAccept => (s.handOver (readingOf s.csumLast s.buf)).setFsm .idle
  | .rsvState _ => s.raise .internal
  | .errIdle => s.raise .transport
  | .errBusy _ => s.raise .transport
  | .idleGate => s.setFsm .hunt
  | .huntHit => s.setFsm .got42
  | .m2Lock => (s.setIdx 0).setFsm .payload
  | .m2Break _ => s.setFsm .hunt
  | .plLast b => (s.storeByte 29 b).setFsm .emit
  | .plCapture b => (s.storeByte s.idx.toNat b).setIdx (s.idx + 1)
  | _ => s

theorem exec_of_no_pop {i : Instr} (hp : popData i = none) (s : State) : exec i s = .next (registerWrites i s) := by
  cases i with
  | huntHit | huntDiscard | m2Lock | m2Rehit | m2Break | plLast | plCapture => cases hp
  | _ => rfl

theorem exec_of_pop {i : Instr} {b : Byte} (hp : popData i = some b) (s : State) :
    exec i s = popByte b (registerWrites i) s := by
  cases i with
  | huntHit | huntDiscard | m2Lock | m2Rehit | m2Break | plLast | plCapture => cases hp; rfl
  | _ => cases hp

/-- An operation that completes has written its registers, after taking its byte from the queue if it pops. -/
theorem exec_next {i : Instr} {s u : State} (h : exec i s = .next u) :
    (popData i = none ∧ u = registerWrites i s) ∨
    ∃ b rest, popData i = some b ∧ s.queue = b :: rest ∧ u = registerWrites i (s.consume b rest) := by
  cases hp : popData i with
  | none =>
    rw [exec_of_no_pop hp] at h
    cases h
    exact .inl ⟨rfl, rfl⟩
  | some b =>
    rw [exec_of_pop hp] at h
    obtain ⟨rest, hq, hu⟩ := popByte_next h
    exact .inr ⟨b, rest, rfl, hq, hu⟩

/-! The register writes leave the byte source, the schedule and the parameters alone. -/

section
variable (i : Instr) (s : State)

@[simp] theorem registerWrites_queue : (registerWrites i s).queue = s.queue := by cases i <;> rfl
@[simp] theorem registerWrites_delivered : (registerWrites i s).delivered = s.delivered := by cases i <;> rfl
@[simp] theorem registerWrites_script : (registerWrites i s).script = s.script := by cases i <;> rfl
@[simp] theorem registerWrites_cycle : (registerWrites i s).cycle = s.cycle := by cases i <;> rfl
@[simp] theorem registerWrites_params : (registerWrites i s).params = s.params := by cases i <;> rfl

end

/-! ## The operation and its key -/

theorem pops_eq_isSome (i : Instr) : pops i = (popData i).isSome := by cases i <;> rfl

/-- The byte an operation is selected with is the key's `data` (R87). -/
theorem decodeKey_popData {K : Key} {i : Instr} {b : Byte} (h : decodeKey K = some i) (hp : popData i = some b) :
    K.data = b := by
  rw [decodeKey_eq] at h
  by_cases hr : K.rst = true
  · rw [if_pos hr] at h
    cases h
    cases hp
  rw [if_neg hr] at h
  cases hf : K.fsm <;> simp only [hf] at h
  case fault | rsv101 | rsv110 => cases h; cases hp
  case idle | emit => split_ifs at h <;> cases h <;> cases hp
  case hunt =>
    split_ifs at h with herr hnz hdata <;> cases h <;> cases hp
    · exact hdata
    · rfl
  case got42 =>
    split_ifs at h with herr hnz hlock hrehit <;> cases h <;> cases hp
    · exact hlock
    · exact hrehit
    · rfl
  case payload => split_ifs at h <;> cases h <;> cases hp <;> rfl

/-- The byte a cycle's operation pops is the one on `src_data` (R29). -/
theorem srcData_of_selectOp {s : State} {i : Instr} {b : Byte} (h : selectOp s = some i) (hp : popData i = some b) :
    srcData s = b := by
  have hdata : (decodeKeyOf s).data = b := decodeKey_popData h hp
  rwa [decodeKeyOf, Key.data_mkKey] at hdata

theorem srcPop_of_selectOp {s : State} {i : Instr} (h : selectOp s = some i) : srcPop s = (popData i).isSome := by
  rw [← pops_eq_isSome]
  simp [srcPop, h]

/-- `src_data` is the byte shown, or any byte where none is: the count on the port matters only as to whether it is 0
(R50, R67). -/
theorem srcData_eq_shown (s : State) : srcData s = (shown s).getD (pins s).emptyData := by
  by_cases hv : reported s = 0
  · have h0 : srcAvail s = 0 := by simpa [hv] using srcAvail_ne_zero s
    cases hq : s.queue <;> simp [srcData, shown, hq, h0, hv]
  · obtain ⟨h, q, hq⟩ := exists_head hv
    simp [srcData_cons hq hv, shown, hq, hv]

/-- The decode key in terms of what the byte source counts, before it is saturated to the port's width (R86, D5). -/
theorem decodeKeyOf_eq (s : State) :
    decodeKeyOf s = mkKey (pins s).rst (pins s).srcErr (pins s).run (decide (32 ≤ reported s))
      (decide (reported s ≠ 0)) (pins s).rdReady s.fsm (s.idx == 29) ((shown s).getD (pins s).emptyData) := by
  simp only [decodeKeyOf, srcAvail_gate, srcAvail_ne_zero, srcData_eq_shown]

/-! ## A cycle: one operation, then the clock edge -/

theorem step_of_exec {s u : State} {i : Instr} (hi : selectOp s = some i) (hu : exec i s = .next u) :
    step s = .next (u.endCycle (pins s)) := by
  simp [step, hi, hu, finishCycle]

theorem step_next {s t : State} (h : step s = .next t) :
    ∃ i u, selectOp s = some i ∧ exec i s = .next u ∧ t = u.endCycle (pins s) := by
  unfold step at h
  cases hi : selectOp s with
  | none => rw [hi] at h; cases h
  | some i =>
    rw [hi] at h
    obtain ⟨u, hu, ht⟩ := finishCycle_next h
    exact ⟨i, u, rfl, hu, ht⟩

/-- What the byte source holds after its pop and before the clock edge: `if src_pop then tail(Q) else Q` (R67). -/
def queueAfterPop (s : State) : List Byte := if srcPop s then s.queue.tail else s.queue

theorem queueAfterPop_length_le (s : State) : (queueAfterPop s).length ≤ s.queue.length := by
  unfold queueAfterPop
  split
  · simp
  · exact le_rfl

/-- The agents' side of a selected operation: the source gives its head away exactly where `src_pop` is 1, and the schedule,
the cycle number and the parameters stay (R29, R51). -/
theorem exec_agents {s u : State} {i : Instr} (hi : selectOp s = some i) (hu : exec i s = .next u) :
    u.queue = queueAfterPop s ∧ u.delivered = s.delivered ++ (if srcPop s then [srcData s] else []) ∧
      u.script = s.script ∧ u.cycle = s.cycle ∧ u.params = s.params := by
  have hpop := srcPop_of_selectOp hi
  rcases exec_next hu with ⟨hp, rfl⟩ | ⟨b, rest, hp, hq, rfl⟩
  · simp [queueAfterPop, hpop, hp]
  · simp [queueAfterPop, hpop, hp, hq, srcData_of_selectOp hi hp]

/-- The agents' side of a cycle (R67). -/
theorem step_agents {s t : State} (h : step s = .next t) :
    t.queue = queueAfterPop s ++ arriving s.params s.cycle (queueAfterPop s).length (pins s).appended ∧
      t.delivered = s.delivered ++ (if srcPop s then [srcData s] else []) ∧
      t.script = s.script.tail ∧ t.cycle = s.cycle + 1 ∧ t.params = s.params := by
  obtain ⟨i, u, hi, hu, rfl⟩ := step_next h
  obtain ⟨hqueue, hdelivered, hscript, hcycle, hparams⟩ := exec_agents hi hu
  simp [hqueue, hdelivered, hscript, hcycle, hparams]

theorem Params.le_depth {p : Params} {d : Nat} (hd : p.depth = some d) : 32 ≤ d := by
  unfold Params.depth at hd
  split at hd <;> cases hd
  exact Nat.le_add_right 32 _

/-! ## The statements -/

/-- Settles O6: of `src_avail` the key shows only the tests against 0 and 32, which the count before saturation decides. -/
theorem availWidthChangesNoKey : Obligations.AvailWidthChangesNoKey := by
  intro s extra
  rw [decodeKeyOf_eq, decodeKeyOf_eq s]
  rfl

/-- Settles O11. -/
theorem cycleComposesWithTheQueue : Obligations.CycleComposesWithTheQueue := by
  intro s t h
  refine ⟨rfl, fun hw => ?_, fun b q hq hv => ?_, step_agents h⟩
  · rw [srcAvail, reported, hw, Nat.sub_zero]
  · exact srcData_cons hq ((srcAvail_ne_zero s).1 hv)

/-- Settles O59: the pop leaves the queue no longer, and what arrives behind it fits the room that is left. -/
theorem queueKeepsItsDepth : Obligations.QueueKeepsItsDepth := by
  refine ⟨fun p n held A => arriving_of_room n, fun s t d hd h => ⟨Params.le_depth hd, ?_⟩⟩
  obtain ⟨hqueue, -⟩ := step_agents h
  have hpop := queueAfterPop_length_le s
  have hroom := arriving_length hd s.cycle (queueAfterPop s).length (pins s).appended
  rw [hqueue, List.length_append]
  omega

/-- Settles O8: the state written out in the statement is the clock edge after `t`. -/
theorem stepRunsTheDecodedOperation : Obligations.StepRunsTheDecodedOperation :=
  fun _ _ _ hi ht => step_of_exec hi ht

/-- Settles O23: the three fault operations pop nothing, and their register writes are `State.raise`. -/
theorem faultOperationsRecordTheirCode : Obligations.FaultOperationsRecordTheirCode := by
  intro s busyHeld rsvHeld
  exact ⟨exec_of_no_pop rfl s, exec_of_no_pop rfl s, exec_of_no_pop rfl s, rfl, rfl, rfl⟩

end Sys2Proof.Machine

/-! # The state of `10_state.md`: who writes which register, and the invariant

Who writes a register is read off the operations' register writes; the invariant of R41 is first put as one condition per
controller state, which the cases of a cycle then keep one by one. -/

namespace Sys2Proof.Machine

/-! ## The registers after an operation -/

/-- The pop changes no register of the core and no record of Readings: these are as the register writes leave them. -/
theorem exec_registers {i : Instr} {s t : State} (h : exec i s = .next t) :
    t.buf = (registerWrites i s).buf ∧ t.idx = (registerWrites i s).idx ∧
      t.faultCode = (registerWrites i s).faultCode ∧ t.taken = (registerWrites i s).taken := by
  rcases exec_next h with ⟨-, rfl⟩ | ⟨b, rest, -, -, rfl⟩
  · exact ⟨rfl, rfl, rfl, rfl⟩
  · cases i <;> exact ⟨rfl, rfl, rfl, rfl⟩

/-- An operation's register writes change `buf` at the offset it stores at, if that is inside `buf`, and nowhere else (R23,
R24). -/
theorem registerWrites_read_buf (i : Instr) (s : State) (a : Nat) :
    (registerWrites i s).buf.read a =
      if storedOffset i s = some a ∧ a < 30 then popData i else s.buf.read a := by
  have stored (o : Nat) (b : Byte) :
      (s.buf.write o b).read a = if some o = some a ∧ a < 30 then some b else s.buf.read a := by
    rcases eq_or_ne a o with rfl | hne
    · simp [Memory.read_write]
    · simp [Memory.read_write, hne, hne.symm]
  cases i with
  | plLast b => exact stored 29 b
  | plCapture b => exact stored s.idx.toNat b
  | _ => exact (if_neg (by simp [storedOffset])).symm

theorem registerWrites_taken {i : Instr} (hi : i ≠ .emitAccept) (s : State) : (registerWrites i s).taken = s.taken := by
  cases i with
  | emitAccept => exact absurd rfl hi
  | _ => rfl

/-- A write outside `buf` has no effect (R23). -/
theorem Memory.write_of_le {a : Nat} (h : 30 ≤ a) (m : Memory) (b : Byte) : m.write a b = m :=
  if_neg (Nat.not_lt.2 h)

/-! ## What a cycle reads -/

theorem shown_eq_none {s : State} (hv : reported s = 0) : shown s = none := if_pos hv

theorem shown_eq_head {s : State} {b : Byte} {q : List Byte} (hv : reported s ≠ 0) (hq : s.queue = b :: q) :
    shown s = some b := by
  simp [shown, hv, hq]

/-- While the source counts no byte, none is popped (R29). -/
theorem CycleCase.delivered_of_none_reported {s u : State} (h : CycleCase s u) (hv : reported s = 0) :
    u.delivered = s.delivered := by
  cases h with
  | hit | discard | lock | rehit | broken | last | capture => contradiction
  | _ => rfl

/-- `idx` before the clock edge, by what holds in the cycle (R23, R210). -/
theorem CycleCase.idx_eq {s u : State} (h : CycleCase s u) :
    u.idx =
      if (pins s).rst then 0
      else if (pins s).srcErr then s.idx
      else if s.fsm = .got42 ∧ shown s = some Config.marker1 then 0
      else if s.fsm = .payload ∧ shown s ≠ none ∧ s.idx ≠ 29 then s.idx + 1
      else s.idx := by
  cases h with
  | reset hr => simp [hr]
  | faultHold hr hf | accept hr hf | hold hr hf | errIdle hr hf | gate hr hf | wait hr hf => simp [hr, hf]
  | reserved hr hf => rcases hf with hf | hf <;> simp [hr, hf]
  | errBusy hr hf he => simp [hr, he]
  | stall hr hf he hv => simp [hr, he, shown_eq_none hv]
  | hit hr hf he | discard hr hf he => simp [hr, hf, he]
  | lock hr hf he q hv hq => simp [hr, hf, he, shown_eq_head hv hq]
  | rehit hr hf he q hv hq =>
    have hlock : Config.marker0 ≠ Config.marker1 := by decide
    simp [hr, hf, he, shown_eq_head hv hq, hlock]
  | broken hr hf he b q hv hq h1 => simp [hr, hf, he, shown_eq_head hv hq, h1]
  | last hr hf he b q hv hq hi => simp [hr, hf, he, hi]
  | capture hr hf he b q hv hq hi => simpa [hr, hf, he, shown_eq_head hv hq] using hi

/-- Of the agents' choices a cycle reads, beside those its operation is selected by, only the bytes appended. -/
theorem step_script_congr {s : State} {c d : CycleInput} {later : List CycleInput}
    (hop : selectOp { s with script := c :: later } = selectOp { s with script := d :: later })
    (happ : c.appended = d.appended) :
    step { s with script := c :: later } = step { s with script := d :: later } := by
  have edge (i : Instr) (t : State) :
      (registerWrites i { t with script := c :: later }).endCycle c =
        (registerWrites i { t with script := d :: later }).endCycle d := by
    simp only [State.endCycle, happ]
    cases i <;> rfl
  unfold step
  rw [hop]
  cases selectOp { s with script := d :: later } with
  | none => rfl
  | some i =>
    cases hp : popData i with
    | none =>
      simp only [exec_of_no_pop hp]
      exact congrArg Host.Outcome.next (edge i s)
    | some b =>
      simp only [exec_of_pop hp, popByte]
      split
      · rfl
      · split
        · exact congrArg Host.Outcome.next (edge i (s.consume _ _))
        · rfl

/-- Of `run` the decoder takes note in IDLE alone, of `rd_ready` in EMIT alone (R87). -/
theorem decodeKey_mkKey_congr {f : Fsm} {run run' rdy rdy' : Bool} (hrun : f = .idle → run = run')
    (hrdy : f = .emit → rdy = rdy') (rst err ge32 nz last : Bool) (data : Byte) :
    decodeKey (mkKey rst err run ge32 nz rdy f last data) = decodeKey (mkKey rst err run' ge32 nz rdy' f last data) := by
  simp only [decodeKey_eq, Key.rst_mkKey, Key.err_mkKey, Key.run_mkKey, Key.ge32_mkKey, Key.nz_mkKey, Key.rdy_mkKey,
    Key.fsm_mkKey, Key.last_mkKey, Key.data_mkKey]
  cases f with
  | idle => rw [hrun rfl]
  | emit => rw [hrdy rfl]
  | _ => rfl

/-! ## The payload captured so far -/

theorem Holds.nil (m : Memory) : Holds m [] := fun _ hi => absurd hi (Nat.not_lt_zero _)

/-- Storing the next byte behind what the first bytes of `buf` hold (R41). -/
theorem Holds.snoc {m : Memory} {l : List Byte} (h : Holds m l) (hl : l.length < 30) (b : Byte) :
    Holds (m.write l.length b) (l ++ [b]) := by
  intro i hi
  rw [List.length_append, List.length_singleton] at hi
  rw [Memory.read_write]
  rcases Nat.lt_or_ge i l.length with hlt | hge
  · rw [if_neg (by omega), h i hlt, List.getElem?_append_left hlt]
  · obtain rfl : i = l.length := by omega
    simp [hl]

/-- A popped byte that is stored behind the payload so far extends it. -/
theorem Captured.snoc {s u : State} {got : List Byte} {b : Byte} (h : Captured s got) (hl : got.length < 30)
    (hdelivered : u.delivered = s.delivered ++ [b]) (hbuf : u.buf = s.buf.write got.length b) :
    Captured u (got ++ [b]) := by
  obtain ⟨⟨before, hbefore⟩, hholds⟩ := h
  refine ⟨⟨before, ?_⟩, ?_⟩
  · rw [hdelivered, hbefore, List.append_assoc _ got]
  · rw [hbuf]
    exact hholds.snoc hl b

/-! ## The invariant, state by state -/

/-- What the invariant says of `idx`, `fault_code` and the capture, by the controller state (R41 items 1 to 4, R124). -/
def Progress (s : State) : Prop :=
  match s.fsm with
  | .idle => s.faultCode = .none
  | .hunt => s.faultCode = .none
  | .got42 => s.faultCode = .none ∧ ∃ before, s.delivered = before ++ [Config.marker0]
  | .payload => s.faultCode = .none ∧ s.idx.toNat ≤ 29 ∧ ∃ got, got.length = s.idx.toNat ∧ Captured s got
  | .emit => s.faultCode = .none ∧ ∃ got, got.length = 30 ∧ Captured s got
  | .rsv101 => False
  | .rsv110 => False
  | .fault => s.faultCode = .transport ∨ s.faultCode = .internal

section
variable {s : State}

theorem progress_idle (hf : s.fsm = .idle) : Progress s ↔ s.faultCode = .none := by simp only [Progress, hf]

theorem progress_hunt (hf : s.fsm = .hunt) : Progress s ↔ s.faultCode = .none := by simp only [Progress, hf]

theorem progress_got42 (hf : s.fsm = .got42) :
    Progress s ↔ s.faultCode = .none ∧ ∃ before, s.delivered = before ++ [Config.marker0] := by
  simp only [Progress, hf]

theorem progress_payload (hf : s.fsm = .payload) :
    Progress s ↔ s.faultCode = .none ∧ s.idx.toNat ≤ 29 ∧ ∃ got, got.length = s.idx.toNat ∧ Captured s got := by
  simp only [Progress, hf]

theorem progress_emit (hf : s.fsm = .emit) :
    Progress s ↔ s.faultCode = .none ∧ ∃ got, got.length = 30 ∧ Captured s got := by
  simp only [Progress, hf]

theorem not_progress_reserved (hf : s.fsm = .rsv101 ∨ s.fsm = .rsv110) : ¬ Progress s := by
  rcases hf with hf | hf <;> simp only [Progress, hf, not_false_eq_true]

/-- `fault_code` is nonzero exactly in FAULT, and never the reserved encoding (R25). -/
theorem Progress.faultCode (h : Progress s) : s.faultCode ≠ .rsv11 ∧ (s.faultCode ≠ .none ↔ s.fsm = .fault) := by
  unfold Progress at h
  cases hf : s.fsm <;> simp only [hf] at h
  case idle | hunt => simp [h]
  case got42 | payload | emit => simp [h.1]
  case fault => rcases h with h | h <;> simp [h]

end

/-- The queue holds no more than `SRC_DEPTH` bytes (R10). -/
def WithinDepth (s : State) : Prop := ∀ d, s.params.depth = some d → s.queue.length ≤ d

/-- The invariant of R41 is a form of `buf`, one condition per controller state, and a bound on the queue. -/
theorem inv_iff (s : State) : Inv s ↔ s.buf.wf ∧ Progress s ∧ WithinDepth s := by
  constructor
  · intro h
    refine ⟨h.buf_wf, ?_, h.in_depth⟩
    have hcode : s.fsm ≠ .fault → s.faultCode = .none := fun hf => not_not.1 (mt h.fault_iff.1 hf)
    cases hf : s.fsm with
    | idle => exact (progress_idle hf).2 (hcode (by simp [hf]))
    | hunt => exact (progress_hunt hf).2 (hcode (by simp [hf]))
    | got42 => exact (progress_got42 hf).2 ⟨hcode (by simp [hf]), h.in_got42 hf⟩
    | payload => exact (progress_payload hf).2 ⟨hcode (by simp [hf]), h.in_payload hf⟩
    | emit => exact (progress_emit hf).2 ⟨hcode (by simp [hf]), h.in_emit hf⟩
    | rsv101 => exact absurd hf h.fsm_legal.1
    | rsv110 => exact absurd hf h.fsm_legal.2
    | fault =>
      have hne := h.fault_iff.2 hf
      have hlegal := h.fault_legal
      simp only [Progress, hf]
      cases hc : s.faultCode with
      | none => exact absurd hc hne
      | transport => exact .inl rfl
      | internal => exact .inr rfl
      | rsv11 => exact absurd hc hlegal
  · rintro ⟨hwf, hs, hdepth⟩
    obtain ⟨hlegal, hiff⟩ := hs.faultCode
    exact {
      buf_wf := hwf
      fsm_legal := ⟨fun hf => not_progress_reserved (.inl hf) hs, fun hf => not_progress_reserved (.inr hf) hs⟩
      fault_legal := hlegal
      fault_iff := hiff
      in_got42 := fun hf => ((progress_got42 hf).1 hs).2
      in_payload := fun hf => ((progress_payload hf).1 hs).2
      in_emit := fun hf => ((progress_emit hf).1 hs).2
      in_depth := hdepth }

/-! ## Every case of a cycle keeps the invariant -/

theorem CycleCase.keeps_buf_wf {s u : State} (h : CycleCase s u) (hwf : s.buf.wf) : u.buf.wf := by
  cases h with
  | last hr hf he b => exact Memory.write_wf s.buf 29 b hwf
  | capture hr hf he b => exact Memory.write_wf s.buf s.idx.toNat b hwf
  | _ => exact hwf

theorem CycleCase.keeps_withinDepth {s u : State} (h : CycleCase s u) (hs : WithinDepth s) : WithinDepth u := by
  cases h with
  | hit hr hf he q hv hq | discard hr hf he b q hv hq | lock hr hf he q hv hq | rehit hr hf he q hv hq
  | broken hr hf he b q hv hq | last hr hf he b q hv hq | capture hr hf he b q hv hq =>
    intro d hd
    have := hs d hd
    rw [hq, List.length_cons] at this
    exact Nat.le_of_succ_le this
  | _ => exact hs

/-- R41 items 1 to 4: a half-marker begins with the `0x42` popped, the lock turns it into a marker with nothing captured, and
every byte captured after it goes where `idx` points. -/
theorem CycleCase.keeps_progress {s u : State} (h : CycleCase s u) (hs : Progress s) : Progress u := by
  cases h with
  | reset => exact (progress_idle rfl).2 rfl
  | faultHold | hold | wait | stall => exact hs
  | reserved hr hf => exact absurd hs (not_progress_reserved hf)
  | errIdle | errBusy => exact .inl rfl
  | accept hr hf => exact (progress_idle rfl).2 ((progress_emit hf).1 hs).1
  | gate hr hf => exact (progress_hunt rfl).2 ((progress_idle hf).1 hs)
  | discard hr hf => exact (progress_hunt (by exact hf)).2 ((progress_hunt hf).1 hs)
  | hit hr hf => exact (progress_got42 rfl).2 ⟨(progress_hunt hf).1 hs, s.delivered, rfl⟩
  | rehit hr hf => exact (progress_got42 (by exact hf)).2 ⟨((progress_got42 hf).1 hs).1, s.delivered, rfl⟩
  | broken hr hf => exact (progress_hunt rfl).2 ((progress_got42 hf).1 hs).1
  | lock hr hf =>
    obtain ⟨hcode, before, hbefore⟩ := (progress_got42 hf).1 hs
    exact (progress_payload rfl).2 ⟨hcode, Nat.zero_le 29, [], rfl, ⟨before, by simp [hbefore]⟩, Holds.nil _⟩
  | last hr hf he b q hv hq hi =>
    obtain ⟨hcode, -, got, hlen, hgot⟩ := (progress_payload hf).1 hs
    have h29 : got.length = 29 := by simp [hlen, hi]
    exact (progress_emit rfl).2 ⟨hcode, got ++ [b], by simp [h29], hgot.snoc (by omega) rfl (by simp [h29])⟩
  | capture hr hf he b q hv hq hi =>
    obtain ⟨hcode, hidx, got, hlen, hgot⟩ := (progress_payload hf).1 hs
    have hnext : (s.idx + 1).toNat = s.idx.toNat + 1 := by bv_omega
    have hle : (s.idx + 1).toNat ≤ 29 := by bv_omega
    have hgrown : (got ++ [b]).length = (s.idx + 1).toNat := by
      rw [List.length_append, List.length_singleton, hlen, hnext]
    exact (progress_payload (by exact hf)).2
      ⟨hcode, hle, got ++ [b], hgrown, hgot.snoc (by omega) rfl (by simp [hlen])⟩

theorem WithinDepth.endCycle {u : State} (h : WithinDepth u) (c : CycleInput) : WithinDepth (u.endCycle c) := by
  intro d hd
  have hheld := h d hd
  have hroom := arriving_length (p := u.params) hd u.cycle u.queue.length c.appended
  rw [State.endCycle_queue, List.length_append]
  omega

/-! ## The Reading on offer -/

theorem sumBytes_congr {buf buf' : Nat → Byte} {n : Nat} (h : ∀ i, i < n → buf i = buf' i) :
    sumBytes buf n = sumBytes buf' n := by
  induction n with
  | zero => rfl
  | succ n ih => rw [sumBytes, sumBytes, ih fun i hi => h i (by omega), h n (by omega)]

theorem lane_congr {buf buf' : Nat → Byte} {k : Nat} (h0 : buf (2 * k) = buf' (2 * k))
    (h1 : buf (2 * k + 1) = buf' (2 * k + 1)) : lane buf k = lane buf' k := by
  rw [lane, lane, h0, h1]

/-- A Reading depends on the thirty payload bytes alone (R150). -/
theorem readingFrom_congr (c : CsumLast) {buf buf' : Nat → Byte} (h : ∀ i, i < 30 → buf i = buf' i) :
    readingFrom c.offset buf = readingFrom c.offset buf' := by
  have hlane (k : Nat) (hk : k < 15) : lane buf k = lane buf' k := lane_congr (h _ (by omega)) (h _ (by omega))
  have hsum : csumCalc c.offset buf = csumCalc c.offset buf' := by
    have hlast : c.offset < 29 := by cases c <;> decide
    rw [csumCalc, csumCalc, csumExact, csumExact, sumBytes_congr fun i hi => h i (by omega)]
  simp [readingFrom, csumOk, hlane, hsum, h]

theorem Holds.read {m : Memory} {l : List Byte} (h : Holds m l) {i : Nat} (hi : i < l.length) :
    m.read i = some (l.getD i 0) := by
  rw [h i hi, List.getD_eq_getElem?_getD, List.getElem?_eq_getElem hi, Option.getD_some]

/-- Where `buf` holds a whole payload, the decoder functions give that payload's Reading (R34). -/
theorem readingOf_of_holds (c : CsumLast) {m : Memory} {p : List Byte} (hlen : p.length = 30) (h : Holds m p) :
    readingOf c.offset m = readingOfPayload c.offset p :=
  readingFrom_congr c fun i hi => by rw [bufByte, h.read (by omega), Option.getD_some]

theorem firstUnwritten_eq_none {m : Memory} (h : ∀ i, i < 30 → m.read i ≠ none) : firstUnwritten m = none :=
  List.find?_range_eq_none.2 fun i hi => by simpa [Option.isSome_iff_ne_none] using h i hi

theorem firstUnwritten_eq_some {m : Memory} {i : Nat} (hi : i < 30) (hnone : m.read i = none)
    (hbefore : ∀ j, j < i → m.read j ≠ none) : firstUnwritten m = some i :=
  List.find?_range_eq_some.2 ⟨by simp [hnone], List.mem_range.2 hi, fun j hj => by
    simpa [Option.isSome_iff_ne_none] using hbefore j hj⟩

theorem checkedReading_of_written (last : Nat) {m : Memory} (h : ∀ i, i < 30 → m.read i ≠ none) :
    checkedReading last m = .ok (readingOf last m) := by
  rw [checkedReading, firstUnwritten_eq_none h]

/-! ## The statements -/

/-- Settles O31: the case the cycle is keeps the form of `buf`, the progress and the depth, and the clock edge touches none
but the depth, which what arrives respects. -/
theorem everyStepKeepsInv : Obligations.EveryStepKeepsInv := by
  intro s t hs h
  obtain ⟨u, hu, rfl⟩ := step_cases h
  obtain ⟨hwf, hprogress, hdepth⟩ := (inv_iff s).1 hs
  exact (inv_iff _).2 ⟨hu.keeps_buf_wf hwf, hu.keeps_progress hprogress, (hu.keeps_withinDepth hdepth).endCycle _⟩

/-- Settles O12: that `src_avail` is not 0 is read off the cases of the cycle, of which only those with a byte counted add to
the record of popped bytes. -/
theorem srcPopRemovesTheHead : Obligations.SrcPopRemovesTheHead := by
  intro s i t hi ht
  obtain ⟨hqueue, hdelivered, -⟩ := exec_agents hi ht
  refine ⟨by rw [srcPop_of_selectOp hi, Option.isSome_iff_exists], fun hpop => ?_, fun hpop => ?_⟩
  · rw [if_pos hpop] at hdelivered
    have hcounted : reported s ≠ 0 := by
      intro hv
      obtain ⟨u, hu, htu⟩ := step_cases (step_of_exec hi ht)
      have hsame : t.delivered = s.delivered := (congrArg State.delivered htu).trans (hu.delivered_of_none_reported hv)
      simp [hdelivered] at hsame
    obtain ⟨b, q, hq⟩ := exists_head hcounted
    refine ⟨(srcAvail_ne_zero s).2 hcounted, ?_, hdelivered⟩
    rw [hqueue, queueAfterPop, if_pos hpop, srcData_cons hq hcounted, hq, List.tail_cons]
  · simp [hqueue, hdelivered, queueAfterPop, hpop]

/-- Settles O25: the pop leaves `buf` alone, and the register writes store at most at `storedOffset`. -/
theorem onlyPayloadOperationsWriteBuf : Obligations.OnlyPayloadOperationsWriteBuf := by
  intro i s t h
  obtain ⟨hbuf, -⟩ := exec_registers h
  simp only [hbuf, registerWrites_read_buf]
  refine ⟨fun hnone a => ?_, fun o ho a ha => ?_, fun o ho hlt => if_pos ⟨ho, hlt⟩⟩
  · simp [hnone]
  · simp [ho, Ne.symm ha]

/-- Settles O26. -/
theorem onlyFaultsAndResetWriteFaultCode : Obligations.OnlyFaultsAndResetWriteFaultCode := by
  refine ⟨fun i s t h => ?_, rfl, rfl, rfl, rfl⟩
  obtain ⟨-, -, hcode, -⟩ := exec_registers h
  rw [hcode]
  cases i <;> rfl

/-- Settles O27: by operation from its register writes, by cycle from the cases of a cycle. -/
theorem onlyLockCaptureAndResetWriteIdx : Obligations.OnlyLockCaptureAndResetWriteIdx := by
  refine ⟨fun i s t h => ?_, fun s t h => ?_⟩
  · obtain ⟨-, hidx, -⟩ := exec_registers h
    rw [hidx]
    cases i <;> rfl
  · obtain ⟨u, hu, rfl⟩ := step_cases h
    exact hu.idx_eq

/-- Settles O28: `taken` by the register writes, the queue and the schedule by the pop or its absence. -/
theorem agentsChangeOnlyByTheirOperations : Obligations.AgentsChangeOnlyByTheirOperations := by
  intro i s t h
  obtain ⟨-, -, -, htaken⟩ := exec_registers h
  refine ⟨fun hi => htaken.trans (registerWrites_taken hi s), ?_⟩
  rcases exec_next h with ⟨hp, rfl⟩ | ⟨b, rest, hp, hq, rfl⟩
  · simp [hp]
  · simp [hp, hq]

/-- Settles O32: by the invariant `buf` holds the last thirty bytes popped, so the Reading of `buf` is theirs and no byte of
it is unwritten. -/
theorem offerIsTheCapturedPayload : Obligations.OfferIsTheCapturedPayload := by
  intro s hs hf
  obtain ⟨p, hlen, ⟨before, hbefore⟩, hholds⟩ := hs.in_emit hf
  have hreading : readingOf s.csumLast s.buf = readingOfPayload s.csumLast p := readingOf_of_holds _ hlen hholds
  have hwritten : ∀ i, i < 30 → s.buf.read i ≠ none := fun i hi => by simp [hholds.read (hlen ▸ hi)]
  exact ⟨before, p, hlen, hbefore, by rw [rdData, if_pos hf, hreading], by
    rw [checkedReading_of_written _ hwritten, hreading]⟩

/-- Settles O33: the first unwritten offset is none in the one case and `i` in the other. -/
theorem checkedDecoderFaultsOnUnwrittenBytes : Obligations.CheckedDecoderFaultsOnUnwrittenBytes := by
  refine fun last m => ⟨checkedReading_of_written last, fun i hi hnone hbefore => ?_⟩
  rw [checkedReading, firstUnwritten_eq_some hi hnone hbefore]

/-- Settles O46: outside IDLE no row of the table looks at `run`. -/
theorem runIsReadOnlyInIdle : Obligations.RunIsReadOnlyInIdle := by
  refine fun s c later r hf => step_script_congr ?_ rfl
  rw [selectOp_eq, selectOp_eq]
  exact decodeKey_mkKey_congr (absurd · hf) (fun _ => rfl) ..

/-- Settles O47: outside EMIT no row of the table looks at `rd_ready`. -/
theorem readyIsReadOnlyInEmit : Obligations.ReadyIsReadOnlyInEmit := by
  refine fun s c later r hf => step_script_congr ?_ rfl
  rw [selectOp_eq, selectOp_eq]
  exact decodeKey_mkKey_congr (fun _ => rfl) (absurd · hf) ..

/-- Settles O15. -/
theorem resetStateIsTheBootState : Obligations.ResetStateIsTheBootState :=
  ⟨rfl, rfl, rfl, Memory.read_nil, rfl, rfl, rfl, rfl⟩

/-- Settles O21: the write falls outside `buf`, and 31 + 1 is 0 in 5 bits. -/
theorem indexOutsideTheBufferWraps : Obligations.IndexOutsideTheBufferWraps := by
  intro s q b hq
  rw [exec_of_pop rfl, popByte_of_head _ hq]
  constructor <;> intro hi <;>
    simp [registerWrites, State.storeByte, State.setIdx, State.consume, hi, Memory.write_of_le]

/-- Settles O30: nothing is written, no fault is recorded and the queue is empty. -/
theorem resetMeetsInv : Obligations.ResetMeetsInv :=
  (inv_iff _).2 ⟨State.reset_buf_wf, (progress_idle rfl).2 rfl, fun _ _ => Nat.zero_le _⟩

/-- Settles O50. -/
theorem statusOutputsShowTheState : Obligations.StatusOutputsShowTheState := by
  intro s
  simp [rdValid, busy, stState, stFault, or_assoc]

end Sys2Proof.Machine

/-! # The byte source of `20_memory.md`: the stream it carries, and the frame cut out of it

Each cycle moves at most the head of the queue to the popped bytes and lets new bytes in behind, so the two together are one
stream. The first marker in it is found by the search and its payload by the capture, both popping one byte per cycle while
the source keeps reporting. -/

namespace Sys2Proof.Machine

/-! ## What a cycle reads of the source -/

/-- Of `src_data` the decoder takes note only where `nz` is 1 (R87). -/
theorem decodeKey_mkKey_data_congr {nz : Bool} {data data' : Byte} (h : nz = true → data = data')
    (rst err run ge32 rdy : Bool) (f : Fsm) (last : Bool) :
    decodeKey (mkKey rst err run ge32 nz rdy f last data) = decodeKey (mkKey rst err run ge32 nz rdy f last data') := by
  cases nz with
  | true => rw [h rfl]
  | false =>
    simp only [decodeKey_eq, Key.rst_mkKey, Key.err_mkKey, Key.run_mkKey, Key.ge32_mkKey, Key.nz_mkKey, Key.rdy_mkKey,
      Key.fsm_mkKey, Key.last_mkKey, Key.data_mkKey]
    cases f <;> rfl

/-! ## The stream over a cycle and over a run -/

/-- The byte popped stood at the head of the queue (R29). -/
theorem popped_append_queueAfterPop {s t : State} (h : step s = .next t) :
    (if srcPop s then [srcData s] else []) ++ queueAfterPop s = s.queue := by
  obtain ⟨i, u, hi, hu, -⟩ := step_next h
  obtain ⟨-, hpopped, -⟩ := srcPopRemovesTheHead s i u hi hu
  unfold queueAfterPop
  by_cases hpop : srcPop s = true
  · obtain ⟨-, hq, -⟩ := hpopped hpop
    rw [if_pos hpop, if_pos hpop, hq]
    rfl
  · rw [if_neg hpop, if_neg hpop, List.nil_append]

/-- A cycle adds what arrives at the end of the stream and changes nothing before it (R62). -/
theorem step_stream {s t : State} (h : step s = .next t) :
    t.delivered ++ t.queue =
      s.delivered ++ s.queue ++ arriving s.params s.cycle (queueAfterPop s).length (pins s).appended := by
  obtain ⟨hqueue, hdelivered, -⟩ := step_agents h
  rw [hqueue, hdelivered, ← popped_append_queueAfterPop h]
  simp only [List.append_assoc]

/-- Where the queue has room for a schedule, the bytes of its first cycle arrive, and room is left for the others. -/
theorem step_fits {s t : State} {c : CycleInput} {cs : List CycleInput} (h : step s = .next t) (hc : pins s = c)
    (hfit : Fits s (c :: cs)) :
    arriving s.params s.cycle (queueAfterPop s).length c.appended = c.appended ∧ Fits t cs := by
  have hpop := queueAfterPop_length_le s
  have hroom (d : Nat) (hd : s.params.depth = some d) :
      s.queue.length + (c.appended.length + (appendedBytes cs).length) ≤ d := by
    simpa [appendedBytes] using hfit d hd
  have harrive : arriving s.params s.cycle (queueAfterPop s).length c.appended = c.appended :=
    arriving_of_room _ fun d hd => by have := hroom d hd; omega
  obtain ⟨hqueue, -, -, -, hparams⟩ := step_agents h
  refine ⟨harrive, fun d hd => ?_⟩
  have := hroom d (hparams ▸ hd)
  rw [hqueue, hc, harrive, List.length_append]
  omega

theorem runFor_add (a b : Nat) {s u t : State} (hu : runFor a s = .next u) (ht : runFor b u = .next t) :
    runFor (a + b) s = .next t := by
  induction a generalizing s with
  | zero =>
    cases hu
    rwa [Nat.zero_add]
  | succ a ih =>
    obtain ⟨v, hv, hu⟩ := (runFor_succ a s u).1 hu
    rw [Nat.succ_add]
    exact (runFor_succ _ s t).2 ⟨v, hv, ih hu⟩

theorem runFor_params {k : Nat} {s t : State} (h : runFor k s = .next t) : t.params = s.params := by
  induction k generalizing s with
  | zero => cases h; rfl
  | succ k ih =>
    obtain ⟨u, hu, h⟩ := (runFor_succ k s t).1 h
    obtain ⟨-, -, -, -, hparams⟩ := step_agents hu
    exact (ih h).trans hparams

/-! ## Cycles that pop one byte each -/

/-- The source holds `bytes` at its head, and for each of them a quiet cycle is scheduled in which it withholds none. -/
def Feeds (s : State) (bytes : List Byte) : Prop :=
  bytes <+: s.queue ∧
    ∃ cs later, s.script = cs ++ later ∧ cs.length = bytes.length ∧ ∀ c ∈ cs, Quiet c ∧ c.withheld = 0

/-- One cycle per byte takes `s` to `t`; each pops its byte, and no Reading is taken and no fault raised. -/
structure Absorbs (s : State) (bytes : List Byte) (t : State) : Prop where
  run : runFor bytes.length s = .next t
  delivered : t.delivered = s.delivered ++ bytes
  taken : t.taken = s.taken
  faultCode : t.faultCode = s.faultCode

theorem Absorbs.trans {s u t : State} {l l' : List Byte} (h : Absorbs s l u) (h' : Absorbs u l' t) :
    Absorbs s (l ++ l') t where
  run := by
    rw [List.length_append]
    exact runFor_add _ _ h.run h'.run
  delivered := by rw [h'.delivered, h.delivered, List.append_assoc]
  taken := h'.taken.trans h.taken
  faultCode := h'.faultCode.trans h.faultCode

/-- A popping operation raises no fault and takes no Reading. -/
theorem registerWrites_of_pop {i : Instr} {b : Byte} (hp : popData i = some b) (s : State) :
    (registerWrites i s).faultCode = s.faultCode ∧ (registerWrites i s).taken = s.taken := by
  cases i with
  | huntHit | huntDiscard | m2Lock | m2Rehit | m2Break | plLast | plCapture => exact ⟨rfl, rfl⟩
  | _ => cases hp

section
variable {s : State} {b : Byte} {bytes : List Byte}

/-- In the next cycle of a fed core the first byte is counted and shown. -/
theorem Feeds.head (h : Feeds s (b :: bytes)) :
    Quiet (pins s) ∧ reported s ≠ 0 ∧ ∃ q, s.queue = b :: q := by
  obtain ⟨⟨rest, hq⟩, cs, later, hscript, hlen, hcs⟩ := h
  cases cs with
  | nil => cases hlen
  | cons c cs =>
    obtain ⟨hquiet, hw⟩ := hcs c List.mem_cons_self
    have hpins : pins s = c := pins_cons s c _ hscript
    exact ⟨hpins ▸ hquiet, by simp [reported, hpins, hw, ← hq], bytes ++ rest, hq.symm⟩

/-- After a cycle that pops its first byte, a fed core is fed with the others. -/
theorem Feeds.tail (h : Feeds s (b :: bytes)) {t : State} {arrived : List Byte}
    (hqueue : t.queue = s.queue.tail ++ arrived) (hscript : t.script = s.script.tail) : Feeds t bytes := by
  obtain ⟨⟨rest, hq⟩, cs, later, hs, hlen, hcs⟩ := h
  cases cs with
  | nil => cases hlen
  | cons c cs =>
    refine ⟨⟨rest ++ arrived, ?_⟩, cs, later, by rw [hscript, hs]; rfl, Nat.succ.inj hlen, fun d hd =>
      hcs d (List.mem_cons_of_mem _ hd)⟩
    rw [hqueue, ← hq, List.cons_append, List.tail_cons, List.append_assoc]

/-- The popping operation selected in a fed core pops its first byte. -/
theorem Feeds.pop (h : Feeds s (b :: bytes)) {i : Instr} (hi : selectOp s = some i) (hp : popData i = some b) :
    ∃ q u, u = (registerWrites i (s.consume b q)).endCycle (pins s) ∧ Absorbs s [b] u ∧ Feeds u bytes := by
  obtain ⟨-, -, q, hq⟩ := h.head
  obtain ⟨hcode, htaken⟩ := registerWrites_of_pop hp (s.consume b q)
  have hexec : exec i s = .next (registerWrites i (s.consume b q)) := by rw [exec_of_pop hp, popByte_of_head _ hq]
  refine ⟨q, _, rfl, ⟨?_, by simp, htaken, hcode⟩, h.tail (by simp [hq]; rfl) (by simp)⟩
  exact (runFor_succ 0 _ _).2 ⟨_, step_of_exec hi hexec, rfl⟩

/-- The operation of a fed core in the search and in the capture, by the byte shown (R114 to R123). -/
theorem Feeds.selected (h : Feeds s (b :: bytes)) :
    (s.fsm = .hunt → selectOp s = some (if b = Config.marker0 then .huntHit else .huntDiscard b)) ∧
    (s.fsm = .got42 → selectOp s =
      some (if b = Config.marker1 then .m2Lock else if b = Config.marker0 then .m2Rehit else .m2Break b)) ∧
    (s.fsm = .payload → selectOp s = some (if s.idx = 29 then .plLast b else .plCapture b)) := by
  obtain ⟨⟨hr, he⟩, hv, q, hq⟩ := h.head
  refine ⟨fun hf => ?_, fun hf => ?_, fun hf => ?_⟩ <;>
    simp [selectOp_eq, decodeKey_eq, hr, he, hf, hv, srcData_cons hq hv]

end

/-! ## The search for the marker -/

theorem NoMarkerIn.of_append {l l' : List Byte} (h : NoMarkerIn (l ++ l')) : NoMarkerIn l' := by
  rintro before tail rfl
  exact h (l ++ before) tail (by simp only [List.append_assoc])

/-- The byte popped last that may be the first half of a marker (R124). -/
def halfMarker (s : State) : List Byte := if s.fsm = .got42 then [Config.marker0] else []

/-- Short of a lock, each byte of the search is popped and leaves the core in GOT42 exactly if it is `0x42` (R124). -/
theorem search_byte {s : State} {b : Byte} {bytes : List Byte} (hf : s.fsm = .hunt ∨ s.fsm = .got42)
    (h : Feeds s (b :: bytes)) (hb : s.fsm = .got42 → b ≠ Config.marker1) :
    ∃ u, u.fsm = (if b = Config.marker0 then .got42 else .hunt) ∧ Absorbs s [b] u ∧ Feeds u bytes := by
  obtain ⟨hhunt, hgot42, -⟩ := h.selected
  rcases hf with hf | hf
  · have hi := hhunt hf
    split_ifs at hi ⊢ with h0
    · obtain ⟨q, u, rfl, hu⟩ := h.pop hi (congrArg some h0.symm)
      exact ⟨_, rfl, hu⟩
    · obtain ⟨q, u, rfl, hu⟩ := h.pop hi rfl
      exact ⟨_, by exact hf, hu⟩
  · have hi := hgot42 hf
    rw [if_neg (hb hf)] at hi
    split_ifs at hi ⊢ with h0
    · obtain ⟨q, u, rfl, hu⟩ := h.pop hi (congrArg some h0.symm)
      exact ⟨_, by exact hf, hu⟩
    · obtain ⟨q, u, rfl, hu⟩ := h.pop hi rfl
      exact ⟨_, rfl, hu⟩

/-- The `0x4D` after a half-marker locks: the capture begins at index 0 (R117). -/
theorem lock_byte {s : State} {bytes : List Byte} (hf : s.fsm = .got42) (h : Feeds s (Config.marker1 :: bytes)) :
    ∃ u, u.fsm = .payload ∧ u.idx = 0 ∧ Absorbs s [Config.marker1] u ∧ Feeds u bytes := by
  obtain ⟨-, hgot42, -⟩ := h.selected
  have hi := hgot42 hf
  rw [if_pos rfl] at hi
  obtain ⟨q, u, rfl, hu⟩ := h.pop hi rfl
  exact ⟨_, rfl, rfl, hu⟩

/-- The search pops junk without a marker and the marker behind it, one byte per cycle, and locks there (R124). -/
theorem search_finds_marker {junk bytes : List Byte} {s : State} (hf : s.fsm = .hunt ∨ s.fsm = .got42)
    (hno : NoMarkerIn (halfMarker s ++ junk))
    (h : Feeds s (junk ++ (Config.marker0 :: Config.marker1 :: bytes))) :
    ∃ t, t.fsm = .payload ∧ t.idx = 0 ∧ Absorbs s (junk ++ [Config.marker0, Config.marker1]) t ∧ Feeds t bytes := by
  induction junk generalizing s with
  | nil =>
    obtain ⟨u, hu, hsu, hfeed⟩ := search_byte hf h fun _ => by decide
    obtain ⟨t, ht, hidx, hut, hfeed⟩ := lock_byte (by simpa using hu) hfeed
    exact ⟨t, ht, hidx, hsu.trans hut, hfeed⟩
  | cons b junk ih =>
    have hlock : s.fsm = .got42 → b ≠ Config.marker1 := by
      rintro hgot rfl
      exact hno [] junk (by simp [halfMarker, hgot])
    obtain ⟨u, hu, hsu, hfeed⟩ := search_byte hf h hlock
    have hsearch : u.fsm = .hunt ∨ u.fsm = .got42 := by
      rw [hu]
      split_ifs <;> simp
    have hno' : NoMarkerIn (halfMarker u ++ junk) := by
      have hbjunk : NoMarkerIn (b :: junk) := hno.of_append
      unfold halfMarker
      rw [hu]
      by_cases h0 : b = Config.marker0
      · simpa [h0] using hbjunk
      · simpa [h0] using NoMarkerIn.of_append (l := [b]) hbjunk
    obtain ⟨t, ht, hidx, hut, hfeed⟩ := ih hsearch hno' hfeed
    exact ⟨t, ht, hidx, hsu.trans hut, hfeed⟩

/-! ## The capture of the payload -/

/-- A byte before the 30th is stored behind those captured, and `idx` counts on (R122). -/
theorem capture_byte {s : State} {b : Byte} {got bytes : List Byte} (hf : s.fsm = .payload)
    (hidx : s.idx.toNat = got.length) (hgot : Holds s.buf got) (hlen : got.length < 29) (h : Feeds s (b :: bytes)) :
    ∃ u, u.fsm = .payload ∧ u.idx.toNat = (got ++ [b]).length ∧ Holds u.buf (got ++ [b]) ∧ Absorbs s [b] u ∧
      Feeds u bytes := by
  obtain ⟨-, -, hpayload⟩ := h.selected
  have hi := hpayload hf
  rw [if_neg (by bv_omega)] at hi
  obtain ⟨q, u, rfl, hu⟩ := h.pop hi rfl
  have hsnoc := hgot.snoc (by omega) b
  rw [← hidx] at hsnoc
  refine ⟨_, by exact hf, ?_, hsnoc, hu⟩
  rw [List.length_append, List.length_singleton, ← hidx]
  show (s.idx + 1).toNat = s.idx.toNat + 1
  bv_omega

/-- The 30th byte completes the payload and offers it (R123). -/
theorem last_byte {s : State} {b : Byte} {got bytes : List Byte} (hf : s.fsm = .payload)
    (hidx : s.idx.toNat = got.length) (hgot : Holds s.buf got) (hlen : got.length = 29) (h : Feeds s (b :: bytes)) :
    ∃ u, u.fsm = .emit ∧ Holds u.buf (got ++ [b]) ∧ Absorbs s [b] u := by
  obtain ⟨-, -, hpayload⟩ := h.selected
  have hi := hpayload hf
  rw [if_pos (by bv_omega)] at hi
  obtain ⟨q, u, rfl, hu, -⟩ := h.pop hi rfl
  have hsnoc := hgot.snoc (by omega) b
  rw [hlen] at hsnoc
  exact ⟨_, rfl, hsnoc, hu⟩

/-- The capture stores the bytes that are left of a payload behind those it has, one per cycle, and ends in EMIT. -/
theorem capture_completes {todo got : List Byte} {b : Byte} {s : State} (hf : s.fsm = .payload)
    (hidx : s.idx.toNat = got.length) (hgot : Holds s.buf got) (hlen : got.length + todo.length = 29)
    (h : Feeds s (todo ++ [b])) :
    ∃ t, t.fsm = .emit ∧ Holds t.buf (got ++ (todo ++ [b])) ∧ Absorbs s (todo ++ [b]) t := by
  induction todo generalizing got s with
  | nil => exact last_byte hf hidx hgot hlen h
  | cons a todo ih =>
    rw [List.length_cons] at hlen
    obtain ⟨u, hu, huidx, hubuf, hsu, hfeed⟩ := capture_byte hf hidx hgot (by omega) h
    obtain ⟨t, ht, htbuf, hut⟩ :=
      ih hu huidx hubuf (by rw [List.length_append, List.length_singleton]; omega) hfeed
    rw [List.append_assoc] at htbuf
    exact ⟨t, ht, htbuf, hsu.trans hut⟩

/-- From the hunt on, a fed core pops the junk, the marker and the payload, and offers the payload. -/
theorem hunt_captures_frame {junk p : List Byte} {s : State} (hf : s.fsm = .hunt) (hno : NoMarkerIn junk)
    (hlen : p.length = 30) (h : Feeds s (junk ++ wireFrame p)) :
    ∃ t, t.fsm = .emit ∧ Holds t.buf p ∧ Absorbs s (junk ++ wireFrame p) t := by
  obtain ⟨u, hu, hidx, hsu, hfeed⟩ := search_finds_marker (.inl hf) (by simpa [halfMarker, hf] using hno) h
  obtain ⟨first, b, rfl⟩ : ∃ first b, p = first ++ [b] := by
    rcases List.eq_nil_or_concat p with rfl | hp
    · cases hlen
    · simpa using hp
  rw [List.length_append, List.length_singleton] at hlen
  obtain ⟨t, ht, hbuf, hut⟩ :=
    capture_completes (got := []) hu (by simp [hidx]) (Holds.nil _) (by simpa using hlen) hfeed
  refine ⟨t, ht, hbuf, ?_⟩
  rw [wireFrame, ← List.append_assoc]
  exact hsu.trans hut

/-- With the gate's conditions met, the next cycle opens the hunt (R111). -/
theorem step_gate {s : State} (hf : s.fsm = .idle) (hquiet : Quiet (pins s)) (hrun : (pins s).run = true)
    (hcount : 32 ≤ reported s) : step s = .next ((s.setFsm .hunt).endCycle (pins s)) := by
  obtain ⟨hr, he⟩ := hquiet
  have hi : selectOp s = some .idleGate := by simp [selectOp_eq, decodeKey_eq, hr, he, hf, hrun, hcount]
  exact step_of_exec hi (exec_of_no_pop rfl s)

/-! ## The statements -/

/-- Settles O13, by induction on the schedule: each cycle lengthens the stream at its end, and pops are only ever added. -/
theorem streamIsKeptInOrder : Obligations.StreamIsKeptInOrder := by
  intro cs
  induction cs with
  | nil =>
    intro rest s t _ h
    cases h
    exact ⟨[], by simp, fun _ => rfl, List.prefix_rfl⟩
  | cons c cs ih =>
    intro rest s t hs h
    obtain ⟨u, hu, h⟩ := (runFor_succ cs.length s t).1 h
    have hpins : pins s = c := pins_cons s c _ hs
    obtain ⟨-, hdelivered, hscript, -⟩ := step_agents hu
    obtain ⟨arrived, hstream, hall, hprefix⟩ := ih rest u t (by rw [hscript, hs]; rfl) h
    have hfirst := step_stream hu
    rw [hpins] at hfirst
    refine ⟨arriving s.params s.cycle (queueAfterPop s).length c.appended ++ arrived, ?_, fun hfit => ?_, ?_⟩
    · rw [hstream, hfirst, List.append_assoc]
    · obtain ⟨harrive, hfit⟩ := step_fits hu hpins hfit
      rw [harrive, hall hfit]
      rfl
    · exact (hdelivered ▸ List.prefix_append _ _ : s.delivered <+: u.delivered).trans hprefix

/-- Settles O29: each case of a cycle but the reset names the state it leaves and the one it enters. -/
theorem controllerMovesAlongItsGraph : Obligations.ControllerMovesAlongItsGraph := by
  intro s t hrst h
  obtain ⟨u, hu, rfl⟩ := step_cases h
  rw [State.endCycle_fsm]
  cases hu with
  | reset hr => simp [hr] at hrst
  | reserved hr hf => rcases hf with hf | hf <;> simp [hf, successors]
  | errBusy hr hf | stall hr hf => rcases hf with hf | hf | hf <;> simp [hf, successors]
  | faultHold hr hf | accept hr hf | hold hr hf | errIdle hr hf | gate hr hf | wait hr hf | hit hr hf | discard hr hf
  | lock hr hf | rehit hr hf | broken hr hf | last hr hf | capture hr hf => simp [hf, successors]

/-- Settles O48: the key's `data` is the free byte only where no byte is counted, and there `nz` is 0. -/
theorem dataOfAnEmptySourceIsNotRead : Obligations.DataOfAnEmptySourceIsNotRead := by
  refine fun s c later d => step_script_congr ?_ rfl
  unfold selectOp
  rw [decodeKeyOf_eq, decodeKeyOf_eq]
  refine decodeKey_mkKey_data_congr (fun hnz => ?_) ..
  have hv := of_decide_eq_true hnz
  obtain ⟨b, q, hq⟩ := exists_head hv
  rw [shown_eq_head hv hq, shown_eq_head (s := { s with script := c :: later }) hv hq, Option.getD_some, Option.getD_some]

/-- Settles O37: one gate cycle, then one cycle for each byte of the junk, the marker and the payload. -/
theorem firstMarkerIsFoundAndItsPayloadOffered : Obligations.FirstMarkerIsFoundAndItsPayloadOffered := by
  intro s junk p rest c cs later hf hqueue hlen hno hscript hcs hrun hquiet
  obtain ⟨hc, hw⟩ := hquiet c List.mem_cons_self
  have hpins : pins s = c := pins_cons s c _ hscript
  have hgate : step s = .next ((s.setFsm .hunt).endCycle c) := by
    rw [← hpins]
    refine step_gate hf (hpins ▸ hc) (hpins ▸ hrun) ?_
    simp only [reported, hpins, hw, hqueue, wireFrame, List.length_append, List.length_cons, List.length_nil]
    omega
  have hfeed : Feeds ((s.setFsm .hunt).endCycle c) (junk ++ wireFrame p) := by
    refine ⟨?_, cs, later, by simp [hscript], by simp [wireFrame, hlen, hcs], fun d hd =>
      hquiet d (List.mem_cons_of_mem _ hd)⟩
    simp [hqueue]
  obtain ⟨t, ht, hbuf, habsorb⟩ := hunt_captures_frame rfl hno hlen hfeed
  have hcycles : (junk ++ wireFrame p).length = junk.length + 32 := by simp [wireFrame, hlen]
  have hrunFor : runFor (junk.length + 33) s = .next t :=
    (runFor_succ (junk.length + 32) s t).2 ⟨_, hgate, hcycles ▸ habsorb.run⟩
  have hdelivered : t.delivered = s.delivered ++ junk ++ wireFrame p := by
    rw [habsorb.delivered, List.append_assoc]
    rfl
  obtain ⟨arrived, hstream, hall, -⟩ := streamIsKeptInOrder (c :: cs) later s t hscript (by
    rw [List.length_cons, hcs]
    exact hrunFor)
  refine ⟨t, arrived, hrunFor, ht, ?_, fun i hi => hbuf i (by omega), ?_, hall, hdelivered, habsorb.taken,
    habsorb.faultCode⟩
  · rw [rdData, if_pos ht, State.csumLast, State.csumLast, runFor_params hrunFor]
    exact readingOf_of_holds _ hlen hbuf
  · rw [hdelivered, hqueue] at hstream
    simpa using hstream

end Sys2Proof.Machine

/-! # The encoding of `30_encoding.md`: keys, the decode table and the encoder

A key is its fields; the decoder reads the operation off the first row that matches, and the row is the operation's own. With
the encoder setting the fields a row asks for, the two agree; with every key decoded, every cycle completes. -/

namespace Sys2Proof

/-! ## A key is its fields -/

theorem Key.code_fsm (K : Key) : K.fsm.code = K.extractLsb' 9 3 := Fsm.code_ofCode _

/-- Two keys with the same fields are the same key: the fields of R86 leave no bit out. -/
theorem Key.eq_of_fields {K L : Key} (hrst : K.rst = L.rst) (herr : K.err = L.err) (hrun : K.run = L.run)
    (hge32 : K.ge32 = L.ge32) (hnz : K.nz = L.nz) (hrdy : K.rdy = L.rdy) (hfsm : K.fsm = L.fsm)
    (hlast : K.last = L.last) (hdata : K.data = L.data) : K = L := by
  obtain ⟨h9, h10, h11⟩ := (Key.fsm_eq_iff K L.fsm).1 hfsm
  obtain ⟨l9, l10, l11⟩ := (Key.fsm_eq_iff L L.fsm).1 rfl
  have hlow (i : Nat) (hi : i < 8) : K.getLsbD i = L.getLsbD i :=
    ((Key.data_eq_iff K L.data).1 hdata i hi).trans ((Key.data_eq_iff L L.data).1 rfl i hi).symm
  refine BitVec.eq_of_getLsbD_eq ((forall_lt_18 _).2 ?_)
  exact ⟨hlow, hlast, h9.trans l9.symm, h10.trans l10.symm, h11.trans l11.symm, hrdy, hnz, hge32, hrun, herr, hrst⟩

theorem mkKey_fields (K : Key) : mkKey K.rst K.err K.run K.ge32 K.nz K.rdy K.fsm K.last K.data = K := by
  apply Key.eq_of_fields <;> simp

/-! ## The rows of the decode table -/

theorem buildErrBusy_eq_some {K : Key} {i : Instr} (h : buildErrBusy K = some i) :
    ∃ held, i = .errBusy held ∧ K.fsm = held.fsm := by
  unfold buildErrBusy at h
  split at h <;> cases h <;> exact ⟨_, rfl, by assumption⟩

theorem buildRsvState_eq_some {K : Key} {i : Instr} (h : buildRsvState K = some i) :
    ∃ held, i = .rsvState held ∧ K.fsm = held.fsm := by
  unfold buildRsvState at h
  split at h <;> cases h <;> exact ⟨_, rfl, by assumption⟩

/-- A row of the table builds only the operation that stands in it; rows 5 and 9 build one for each state they cover. -/
theorem row_of_build {r : Row} (hr : r ∈ decodeRows) {K : Key} {i : Instr} (h : r.build K = some i) : i.row = r := by
  simp only [decodeRows, List.mem_cons, List.not_mem_nil, or_false] at hr
  rcases hr with rfl | rfl | rfl | rfl | rfl | rfl | rfl | rfl | rfl | rfl | rfl | rfl | rfl | rfl | rfl | rfl | rfl |
    rfl | rfl
  on_goal 9 =>
    obtain ⟨held, rfl, -⟩ := buildErrBusy_eq_some h
    rfl
  on_goal 5 =>
    obtain ⟨held, rfl, -⟩ := buildRsvState_eq_some h
    rfl
  all_goals cases h; rfl

/-- The operation decoded is built from the key by its own row, which is the first that matches (R87). -/
theorem decodeKey_eq_some {K : Key} {i : Instr} (h : decodeKey K = some i) :
    decodeRows.find? (fun r => r.hit K) = some i.row ∧ i.row.build K = some i := by
  obtain ⟨r, hfind, hbuild⟩ := Option.bind_eq_some_iff.1 h
  rw [row_of_build (List.mem_of_find?_eq_some hfind) hbuild]
  exact ⟨hfind, hbuild⟩

theorem row_hit_of_decodeKey {K : Key} {i : Instr} (h : decodeKey K = some i) : i.row.hit K = true := by
  obtain ⟨hfind, -⟩ := decodeKey_eq_some h
  exact List.find?_some (p := fun r : Row => r.hit K) hfind

/-- Every key decodes to an operation (R88). -/
theorem exists_decodeKey (K : Key) : ∃ i, decodeKey K = some i := by
  rw [decodeKey_eq]
  by_cases hr : K.rst = true
  · exact ⟨_, if_pos hr⟩
  · rw [if_neg hr]
    cases K.fsm <;> exact ⟨_, rfl⟩

/-- One key matches two rows only where their matches agree in the bits that both masks test. -/
theorem patterns_agree_of_hit {r r' : Row} {K : Key} (h : r.hit K = true) (h' : r'.hit K = true) :
    r.pattern &&& r'.mask = r'.pattern &&& r.mask := by
  rw [Row.hit, beq_iff_eq] at h h'
  rw [← h, ← h', BitVec.and_assoc, BitVec.and_assoc, BitVec.and_comm r.mask]

/-- The rows that do not use order differ, two by two, in a bit that both test (R87). -/
theorem unordered_rows_differ : decodeRows.Pairwise fun r r' =>
    r.usesOrder = false → r'.usesOrder = false → r.pattern &&& r'.mask ≠ r'.pattern &&& r.mask := by
  decide

/-! ## The operands -/

/-- The rows before an operation's own leave it only operands it can be selected with (R110, R114, R118). -/
theorem wf_of_decodeKey {K : Key} {i : Instr} (h : decodeKey K = some i) : i.wf = true := by
  rw [decodeKey_eq] at h
  by_cases hr : K.rst = true
  · rw [if_pos hr] at h
    cases h
    rfl
  rw [if_neg hr] at h
  cases hf : K.fsm <;> simp only [hf] at h
  case fault | rsv101 | rsv110 => cases h; rfl
  case emit | payload => split_ifs at h <;> cases h <;> rfl
  case idle =>
    split_ifs at h with herr hgate <;> cases h
    · rfl
    · rfl
    · cases hrun : K.run with
      | false => rfl
      | true =>
        rw [hrun, Bool.and_true, Bool.not_eq_true] at herr
        rw [hrun, Bool.true_and, Bool.not_eq_true] at hgate
        rw [herr, hgate]
        rfl
  case hunt =>
    split_ifs at h with herr hnz hhit <;> cases h
    case neg => simpa [Instr.wf] using hhit
    all_goals rfl
  case got42 =>
    split_ifs at h with herr hnz hlock hrehit <;> cases h
    case neg => simp [Instr.wf, hlock, hrehit]
    all_goals rfl

/-! ## The encoder -/

/-- The key written for an operation has the fields its row asks for, and its operands keep the rows before from matching. -/
theorem decodeKey_encode {i : Instr} (hi : i.wf = true) : decodeKey (encode i) = some i := by
  rw [decodeKey_eq]
  cases i with
  | rsvState held => cases held <;> simp [encode, RsvFsm.fsm]
  | errBusy held => cases held <;> simp [encode, BusyFsm.fsm]
  | idleWait run err ge32 =>
    have hgate : run = false ∨ err = false ∧ ge32 = false := by simpa [Instr.wf] using hi
    rcases hgate with rfl | ⟨rfl, rfl⟩ <;> simp [encode]
  | huntDiscard data =>
    have hdata : data ≠ Config.marker0 := by simpa [Instr.wf] using hi
    simp [encode, hdata]
  | m2Break data =>
    have hdata : data ≠ Config.marker1 ∧ data ≠ Config.marker0 := by simpa [Instr.wf] using hi
    simp [encode, hdata]
  | m2Rehit =>
    have hmarkers : Config.marker0 ≠ Config.marker1 := by decide
    simp [encode, hmarkers]
  | _ => simp [encode]

theorem length_natToBytes (n w : Nat) : (natToBytes n w).length = n := by
  induction n generalizing w with
  | zero => rfl
  | succ n ih => rw [natToBytes, List.length_cons, ih]

/-- `n` bytes hold a number up to its multiples of `256 ^ n`. -/
theorem bytesToNat_natToBytes (n w : Nat) : bytesToNat (natToBytes n w) = w % 256 ^ n := by
  induction n generalizing w with
  | zero => simp [natToBytes, bytesToNat, Nat.mod_one]
  | succ n ih =>
    rw [natToBytes, bytesToNat, ih, BitVec.toNat_ofNat, pow_succ' 256 n]
    exact Nat.mod_mul.symm

/-- The byte form of a key decodes as the key does: three bytes hold its 18 bits. -/
theorem decodeBytes_of_decodeKey {K : Key} {i : Instr} (h : decodeKey K = some i) :
    decodeBytes (natToBytes 3 K.toNat) = .ok i := by
  have hlt : K.toNat < 2 ^ 18 := K.isLt
  have hvalue : bytesToNat (natToBytes 3 K.toNat) = K.toNat := by
    rw [bytesToNat_natToBytes, Nat.mod_eq_of_lt (by omega)]
  rw [decodeBytes, hvalue, length_natToBytes, if_neg (by decide), if_neg (by omega), BitVec.ofNat_toNat,
    BitVec.setWidth_eq, h]

end Sys2Proof

namespace Sys2Proof.Machine

/-! ## A cycle that pops -/

/-- The row of a popping operation tests `nz`. -/
theorem row_tests_nz {i : Instr} {b : Byte} (hp : popData i = some b) :
    i.row.mask.getLsbD 13 = true ∧ i.row.pattern.getLsbD 13 = true := by
  cases i with
  | huntHit | huntDiscard | m2Lock | m2Rehit | m2Break | plLast | plCapture =>
    dsimp only [Instr.row]
    decide
  | _ => cases hp

/-- A popping operation is selected only while a byte is counted (R29). -/
theorem nz_of_decodeKey {K : Key} {i : Instr} {b : Byte} (h : decodeKey K = some i) (hp : popData i = some b) :
    K.nz = true := by
  obtain ⟨hmask, hpattern⟩ := row_tests_nz hp
  have hbit := (Row.hit_iff i.row K).1 (row_hit_of_decodeKey h) 13 (by decide)
  rwa [hmask, hpattern, Bool.and_true] at hbit

/-! ## A key placed -/

section
variable (s : State) (K : Key)

theorem pins_placeKey : pins (placeKey s K) =
    { rst := K.rst, run := K.run, srcErr := K.err, rdReady := K.rdy, withheld := 0, emptyData := K.data, appended := [] } :=
  rfl

theorem placeKey_idx_eq_29 : ((placeKey s K).idx == 29) = K.last := by
  simp only [placeKey]
  cases K.last with
  | true => rfl
  | false =>
    by_cases h29 : s.idx = 29
    · simp [h29]
    · rw [if_neg h29]
      exact beq_false_of_ne h29

variable {K}

theorem length_queueForKey (hK : K.ge32 = true → K.nz = true) :
    (queueForKey K).length = if K.ge32 then 32 else if K.nz then 1 else 0 := by
  unfold queueForKey
  cases hge : K.ge32 with
  | true => simp [hK hge]
  | false => cases K.nz <;> rfl

theorem reported_placeKey (hK : K.ge32 = true → K.nz = true) :
    reported (placeKey s K) = if K.ge32 then 32 else if K.nz then 1 else 0 := length_queueForKey hK

/-- The queue placed has the key's byte at its head, if it has one. -/
theorem head?_queueForKey_getD : (queueForKey K).head?.getD K.data = K.data := by
  unfold queueForKey
  split_ifs <;> rfl

theorem shown_placeKey_getD : (shown (placeKey s K)).getD K.data = K.data := by
  unfold shown
  split
  · rfl
  · exact head?_queueForKey_getD

end

/-! ## The statements -/

/-- Settles O1: on keys row by row, and on bytes because three of them hold a key. -/
theorem encodeDecodeRoundTrip : Obligations.EncodeDecodeRoundTrip :=
  fun _ hi => ⟨decodeKey_encode hi, decodeBytes_of_decodeKey (decodeKey_encode hi)⟩

/-- Settles O2: the first row that matches is the row of the operation decoded, and there is one for every key. -/
theorem decodeTableCompleteAndUnambiguous : Obligations.DecodeTableCompleteAndUnambiguous := by
  refine ⟨fun K => ?_, fun K => ?_, fun K => ?_⟩
  · obtain ⟨i, hi⟩ := exists_decodeKey K
    obtain ⟨hfind, -⟩ := decodeKey_eq_some hi
    exact ⟨i.row, List.mem_of_find?_eq_some hfind, row_hit_of_decodeKey hi⟩
  · obtain ⟨i, hi⟩ := exists_decodeKey K
    obtain ⟨hfind, -⟩ := decodeKey_eq_some hi
    obtain ⟨hhit, earlier, later, hrows, hearlier⟩ := List.find?_eq_some_iff_append.1 hfind
    exact ⟨i, earlier, later, hi, hrows, hhit, fun r hr => by simpa using hearlier r hr⟩
  · exact unordered_rows_differ.imp fun hdiffer hr hr' ⟨hhit, hhit'⟩ =>
      hdiffer hr hr' (patterns_agree_of_hit hhit hhit')

/-- Settles O3: the operands are what the operation's own row builds from the key. -/
theorem decodedOperationFitsItsKey : Obligations.DecodedOperationFitsItsKey := by
  intro K i h
  obtain ⟨-, hbuild⟩ := decodeKey_eq_some h
  refine ⟨wf_of_decodeKey h, beq_iff_eq.1 (row_hit_of_decodeKey h), ?_, fun b => decodeKey_popData h, ?_, ?_⟩
  · rintro run err ge32 rfl
    cases hbuild
    exact ⟨rfl, rfl, rfl⟩
  · rintro held rfl
    obtain ⟨_, heq, hfsm⟩ := buildErrBusy_eq_some hbuild
    cases heq
    exact hfsm
  · rintro held rfl
    obtain ⟨_, heq, hfsm⟩ := buildRsvState_eq_some hbuild
    cases heq
    exact hfsm

/-- Settles O7: the state placed shows each field of the key, and the key is its fields. -/
theorem placedKeyIsTheKeyOfTheCycle : Obligations.PlacedKeyIsTheKeyOfTheCycle := by
  intro s K hK
  have hcount := reported_placeKey s hK
  have hge32 : decide (32 ≤ reported (placeKey s K)) = K.ge32 := by
    rw [hcount]
    cases K.ge32 <;> cases K.nz <;> rfl
  have hnz : decide (reported (placeKey s K) ≠ 0) = K.nz := by
    rw [hcount]
    cases hge : K.ge32 with
    | true => rw [hK hge]; rfl
    | false => cases K.nz <;> rfl
  rw [decodeKeyOf_eq, hge32, hnz, placeKey_idx_eq_29, pins_placeKey, shown_placeKey_getD]
  exact mkKey_fields K

/-- Settles O10: an operation is selected, and if it pops, its byte is the head of the queue. -/
theorem everyCycleCompletes : Obligations.EveryCycleCompletes := by
  intro s
  obtain ⟨i, hi⟩ := exists_decodeKey (decodeKeyOf s)
  cases hp : popData i with
  | none => exact ⟨_, step_of_exec hi (exec_of_no_pop hp s)⟩
  | some b =>
    have hnz : srcAvail s ≠ 0 := by simpa [decodeKeyOf] using nz_of_decodeKey hi hp
    have hcounted : reported s ≠ 0 := (srcAvail_ne_zero s).1 hnz
    obtain ⟨head, rest, hq⟩ := exists_head hcounted
    obtain rfl : head = b := (srcData_cons hq hcounted).symm.trans (srcData_of_selectOp hi hp)
    exact ⟨_, step_of_exec hi ((exec_of_pop hp s).trans (popByte_of_head _ hq))⟩

/-- Settles O4: each bit is a field of the key the cycle forms, and a count of 32 is not 0. -/
theorem decodeKeyShowsStateAndPorts : Obligations.DecodeKeyShowsStateAndPorts := by
  intro s
  have hge32 : (decodeKeyOf s).ge32 = decide (32 ≤ srcAvail s) := Key.ge32_mkKey ..
  have hnz : (decodeKeyOf s).nz = decide (srcAvail s ≠ 0) := Key.nz_mkKey ..
  have hfsm : (decodeKeyOf s).fsm = s.fsm := Key.fsm_mkKey ..
  refine ⟨Key.rst_mkKey .., Key.err_mkKey .., Key.run_mkKey .., hge32, hnz, Key.rdy_mkKey .., ?_, Key.last_mkKey ..,
    Key.data_mkKey .., fun h => ?_⟩
  · rw [← Key.code_fsm, hfsm]
  · have hmin : 32 ≤ srcAvail s := of_decide_eq_true (hge32.symm.trans h)
    exact hnz.trans (decide_eq_true (by omega))

/-- Settles O5, by running the decoder on the ten keys. -/
theorem decodeKeyVectors : Obligations.DecodeKeyVectors := by
  unfold Obligations.DecodeKeyVectors
  decide

end Sys2Proof.Machine

/-! # The synchronizer of `40_synchronizer.md`: gate, search and capture against the reading of the stream

The reading of a stream takes one byte at a time, and so does the core: a cycle that pops moves both by the same byte, any
other cycle moves neither. Frames that stand back to back are one search and one hand-over each. -/

namespace Sys2Proof.Machine

/-! ## Operations with and without a byte -/

/-- A popping operation with its byte at the head of the queue takes it and writes its registers (R13, R51). -/
theorem exec_of_head {i : Instr} {b : Byte} (hp : popData i = some b) {s : State} {q : List Byte} (hq : s.queue = b :: q) :
    exec i s = .next (registerWrites i (s.consume b q)) :=
  (exec_of_pop hp s).trans (popByte_of_head _ hq)

/-- `src_pop` is 1 exactly in a cycle that adds to the bytes popped (R29). -/
theorem srcPop_eq_false_iff {s t : State} (h : step s = .next t) : srcPop s = false ↔ t.delivered = s.delivered := by
  obtain ⟨-, hdelivered, -⟩ := step_agents h
  rw [hdelivered]
  cases srcPop s <;> simp

/-- Outside the search and the capture no case of a cycle pops (R112, R184, R230). -/
theorem CycleCase.delivered_of_no_search {s u : State} (h : CycleCase s u) (hhunt : s.fsm ≠ .hunt)
    (hgot42 : s.fsm ≠ .got42) (hpayload : s.fsm ≠ .payload) : u.delivered = s.delivered := by
  cases h with
  | hit hr hf | discard hr hf => exact absurd hf hhunt
  | lock hr hf | rehit hr hf | broken hr hf => exact absurd hf hgot42
  | last hr hf | capture hr hf => exact absurd hf hpayload
  | _ => rfl

/-- A byte popped in the search decides alone where the core goes next (R114 to R119, R124). -/
theorem CycleCase.fsm_of_search_pop {s u : State} (h : CycleCase s u) (hf : s.fsm = .hunt ∨ s.fsm = .got42)
    (hpop : u.delivered ≠ s.delivered) :
    (u.fsm = .got42 ↔ srcData s = Config.marker0) ∧
      (u.fsm = .payload ↔ s.fsm = .got42 ∧ srcData s = Config.marker1) ∧ (u.fsm = .payload → u.idx = 0) := by
  have hmarkers : Config.marker0 ≠ Config.marker1 := by decide
  cases h with
  | hit hr hf he q hv hq => simp [srcData_cons hq hv, hf]
  | discard hr hf he b q hv hq hb => simp [srcData_cons hq hv, hf, hb]
  | lock hr hf he q hv hq => simp [srcData_cons hq hv, hf, hmarkers.symm]
  | rehit hr hf he q hv hq => simp [srcData_cons hq hv, hf, hmarkers]
  | broken hr hf he b q hv hq h1 h0 => simp [srcData_cons hq hv, h1, h0]
  | last hr hpayload | capture hr hpayload => simp [hpayload] at hf
  | _ => exact absurd rfl hpop

/-! ## Stalls -/

/-- A quiet cycle of the search or the capture in which the source counts no byte is the clock edge alone (R113, R116,
R120). -/
theorem step_stall {s : State} (hf : s.fsm = .hunt ∨ s.fsm = .got42 ∨ s.fsm = .payload) (hquiet : Quiet (pins s))
    (hv : reported s = 0) : step s = .next (s.endCycle (pins s)) := by
  obtain ⟨hrst, herr⟩ := hquiet
  obtain ⟨t, h⟩ := everyCycleCompletes s
  obtain ⟨u, hu, rfl⟩ := step_cases h
  cases hu with
  | stall => exact h
  | reset hr => simp [hr] at hrst
  | errIdle hr hf' he | errBusy hr hf' he => simp [he] at herr
  | faultHold hr hf' | hold hr hf' | wait hr hf' | accept hr hf' | gate hr hf' => simp [hf'] at hf
  | reserved hr hf' => rcases hf' with hf' | hf' <;> simp [hf'] at hf
  | hit | discard | lock | rehit | broken | last | capture => contradiction

/-! ## The reading of a stream, one byte more -/

/-- The reading of a stream with one byte more is one step on (R58, R124). -/
theorem scan_snoc (stream : List Byte) (b : Byte) : scan (stream ++ [b]) = scanByte (scan stream) b := by
  rw [scan, List.foldl_append]
  rfl

section
variable {c : Scan} (b : Byte)

theorem scanByte_hunt (h : c.phase = .hunt) :
    scanByte c b = { c with phase := if b = Config.marker0 then .half else .hunt } := by
  simp only [scanByte, h]

theorem scanByte_half (h : c.phase = .half) :
    scanByte c b =
      { c with phase := if b = Config.marker1 then .payload [] else if b = Config.marker0 then .half else .hunt } := by
  simp only [scanByte, h]

theorem scanByte_payload {got : List Byte} (h : c.phase = .payload got) (hlen : got.length < 29) :
    scanByte c b = { c with phase := .payload (got ++ [b]) } := by
  have hmore : got.length + 1 < Config.payloadLen := Nat.succ_lt_succ hlen
  simp only [scanByte, h, if_pos hmore]

theorem scanByte_last {got : List Byte} (h : c.phase = .payload got) (hlen : got.length = 29) :
    scanByte c b = { phase := .hunt, frames := c.frames ++ [got ++ [b]] } := by
  have hlast : ¬ got.length + 1 < Config.payloadLen := by
    rw [hlen]
    exact Nat.lt_irrefl 30
  simp only [scanByte, h, if_neg hlast]

end

/-! ## Where the core stands in the stream, state by state -/

/-- The Readings that the frames of a stream give, for a `CSUM_LAST` of `last`. -/
def streamReadings (last : Nat) (stream : List Byte) : List Reading := (scan stream).frames.map (readingOfPayload last)

section
variable {s : State}

theorem offered_of_emit (hf : s.fsm = .emit) : offered s = s.taken ++ [readingOf s.csumLast s.buf] := by
  rw [offered, if_pos hf]

theorem offered_of_ne_emit (hf : s.fsm ≠ .emit) : offered s = s.taken := by
  rw [offered, if_neg hf, List.append_nil]

theorem followsStream_searching (hf : s.fsm = .idle ∨ s.fsm = .hunt) :
    FollowsStream s ↔ s.taken = streamReadings s.csumLast s.delivered ∧ (scan s.delivered).phase = .hunt := by
  rcases hf with hf | hf <;> simp only [FollowsStream, offered_of_ne_emit, streamReadings, hf, ne_eq, reduceCtorEq,
    not_false_eq_true]

theorem followsStream_got42 (hf : s.fsm = .got42) :
    FollowsStream s ↔ s.taken = streamReadings s.csumLast s.delivered ∧ (scan s.delivered).phase = .half := by
  simp only [FollowsStream, offered_of_ne_emit, streamReadings, hf, ne_eq, reduceCtorEq, not_false_eq_true]

theorem followsStream_payload (hf : s.fsm = .payload) :
    FollowsStream s ↔ s.taken = streamReadings s.csumLast s.delivered ∧ s.idx.toNat ≤ 29 ∧
      ∃ got, (scan s.delivered).phase = .payload got ∧ got.length = s.idx.toNat ∧ Holds s.buf got := by
  simp only [FollowsStream, offered_of_ne_emit, streamReadings, hf, ne_eq, reduceCtorEq, not_false_eq_true]

theorem followsStream_emit (hf : s.fsm = .emit) :
    FollowsStream s ↔
      s.taken ++ [readingOf s.csumLast s.buf] = streamReadings s.csumLast s.delivered ∧
        (scan s.delivered).phase = .hunt := by
  simp only [FollowsStream, offered_of_emit, streamReadings, hf]

theorem not_followsStream (hf : s.fsm = .rsv101 ∨ s.fsm = .rsv110 ∨ s.fsm = .fault) : ¬ FollowsStream s := by
  rcases hf with hf | hf | hf <;> simp only [FollowsStream, hf, and_false, not_false_eq_true]

/-- A byte that completes no frame moves the reading of the stream on and leaves its Readings as they are. -/
theorem streamReadings_of_pop {b : Byte} {phase : ScanPhase} (hs : s.taken = streamReadings s.csumLast s.delivered)
    (hscan : scanByte (scan s.delivered) b = { scan s.delivered with phase := phase }) :
    s.taken = streamReadings s.csumLast (s.delivered ++ [b]) ∧ (scan (s.delivered ++ [b])).phase = phase := by
  rw [streamReadings, scan_snoc, hscan]
  exact ⟨hs, rfl⟩

end

/-- Without reset and error, each case of a cycle pops the byte that takes the reading of the stream to the place the core
goes to, or pops none and stays in its place (R124, R232). -/
theorem CycleCase.keeps_followsStream {s u : State} (h : CycleCase s u) (hquiet : Quiet (pins s))
    (hs : FollowsStream s) : FollowsStream u := by
  obtain ⟨hrst, herr⟩ := hquiet
  cases h with
  | reset hr => simp [hr] at hrst
  | errIdle hr hf he | errBusy hr hf he => simp [he] at herr
  | faultHold hr hf => exact absurd hs (not_followsStream (.inr (.inr hf)))
  | reserved hr hf => exact absurd hs (not_followsStream (hf.imp_right .inl))
  | hold | wait | stall => exact hs
  | accept hr hf => exact (followsStream_searching (.inl rfl)).2 ((followsStream_emit hf).1 hs)
  | gate hr hf => exact (followsStream_searching (.inr rfl)).2 ((followsStream_searching (.inl hf)).1 hs)
  | hit hr hf =>
    obtain ⟨htaken, hphase⟩ := (followsStream_searching (.inr hf)).1 hs
    exact (followsStream_got42 rfl).2
      (streamReadings_of_pop htaken (by rw [scanByte_hunt _ hphase, if_pos rfl]))
  | discard hr hf he b q hv hq hb =>
    obtain ⟨htaken, hphase⟩ := (followsStream_searching (.inr hf)).1 hs
    exact (followsStream_searching (.inr (by exact hf))).2
      (streamReadings_of_pop htaken (by rw [scanByte_hunt _ hphase, if_neg hb]))
  | lock hr hf =>
    obtain ⟨htaken, hphase⟩ := (followsStream_got42 hf).1 hs
    obtain ⟨htaken, hphase⟩ := streamReadings_of_pop htaken (by rw [scanByte_half Config.marker1 hphase, if_pos rfl])
    exact (followsStream_payload rfl).2 ⟨htaken, Nat.zero_le 29, [], hphase, rfl, Holds.nil _⟩
  | rehit hr hf =>
    obtain ⟨htaken, hphase⟩ := (followsStream_got42 hf).1 hs
    exact (followsStream_got42 (by exact hf)).2
      (streamReadings_of_pop htaken (by rw [scanByte_half _ hphase, if_neg (by decide), if_pos rfl]))
  | broken hr hf he b q hv hq h1 h0 =>
    obtain ⟨htaken, hphase⟩ := (followsStream_got42 hf).1 hs
    exact (followsStream_searching (.inr rfl)).2
      (streamReadings_of_pop htaken (by rw [scanByte_half _ hphase, if_neg h1, if_neg h0]))
  | last hr hf he b q hv hq hi =>
    obtain ⟨htaken, -, got, hphase, hlen, hholds⟩ := (followsStream_payload hf).1 hs
    have h29 : got.length = 29 := by simp [hlen, hi]
    have hstored : Holds (s.buf.write 29 b) (got ++ [b]) := h29 ▸ hholds.snoc (by omega) b
    have hreading : readingOf s.csumLast (s.buf.write 29 b) = readingOfPayload s.csumLast (got ++ [b]) :=
      readingOf_of_holds _ (by simp [h29]) hstored
    have hscan : scan (s.delivered ++ [b]) = { phase := .hunt, frames := (scan s.delivered).frames ++ [got ++ [b]] } := by
      rw [scan_snoc, scanByte_last b hphase h29]
    refine (followsStream_emit rfl).2 ⟨?_, congrArg Scan.phase hscan⟩
    show s.taken ++ [readingOf s.csumLast (s.buf.write 29 b)] = streamReadings s.csumLast (s.delivered ++ [b])
    rw [hreading, htaken, streamReadings, streamReadings, hscan, List.map_append]
    rfl
  | capture hr hf he b q hv hq hi =>
    obtain ⟨htaken, hidx, got, hphase, hlen, hholds⟩ := (followsStream_payload hf).1 hs
    have hmore : got.length < 29 := by bv_omega
    have hnext : (s.idx + 1).toNat = s.idx.toNat + 1 := by bv_omega
    obtain ⟨htaken, hphase⟩ := streamReadings_of_pop htaken (scanByte_payload b hphase hmore)
    refine (followsStream_payload (by exact hf)).2
      ⟨htaken, ?_, got ++ [b], hphase, ?_, hlen ▸ hholds.snoc (by omega) b⟩
    · show (s.idx + 1).toNat ≤ 29
      omega
    · rw [List.length_append, List.length_singleton, hlen]
      exact hnext.symm

/-! ## Frames back to back -/

/-- A cycle that lets the core go as fast as it can: quiet, with every byte counted, `run` and `rd_ready` 1 (R126). -/
def Eager (c : CycleInput) : Prop := Quiet c ∧ c.withheld = 0 ∧ c.run = true ∧ c.rdReady = true

theorem NoMarkerIn.nil : NoMarkerIn [] := fun _ _ h => by simp at h

/-- With the reader ready, a cycle of EMIT without reset hands the Reading over (R153). -/
theorem step_accept {s : State} (hf : s.fsm = .emit) (hrst : (pins s).rst = false) (hready : (pins s).rdReady = true) :
    step s = .next (((s.handOver (readingOf s.csumLast s.buf)).setFsm .idle).endCycle (pins s)) := by
  have hi : selectOp s = some .emitAccept := by simp [selectOp_eq, decodeKey_eq, hrst, hready, hf]
  exact step_of_exec hi (exec_of_no_pop rfl s)

theorem runFor_script {k : Nat} {s t : State} (h : runFor k s = .next t) : t.script = s.script.drop k := by
  induction k generalizing s with
  | zero => cases h; rfl
  | succ k ih =>
    obtain ⟨u, hu, h⟩ := (runFor_succ k s t).1 h
    obtain ⟨-, -, hscript, -⟩ := step_agents hu
    rw [ih h, hscript, List.drop_tail]

/-- A run that has popped a beginning of the queue leaves the rest of it, and what arrived behind it (R62). -/
theorem queue_of_run {s t : State} {cs later : List CycleInput} {popped rest : List Byte} (hscript : s.script = cs ++ later)
    (h : runFor cs.length s = .next t) (hdelivered : t.delivered = s.delivered ++ popped)
    (hqueue : s.queue = popped ++ rest) :
    ∃ arrived, t.queue = rest ++ arrived ∧ (Fits s cs → arrived = appendedBytes cs) := by
  obtain ⟨arrived, hstream, hall, -⟩ := streamIsKeptInOrder cs later s t hscript h
  rw [hdelivered, hqueue] at hstream
  exact ⟨arrived, by simpa using hstream, hall⟩

/-- A run of `k` cycles from IDLE back to IDLE that pops whole frames and has the reader take their Readings. -/
structure HandsOver (k : Nat) (s : State) (ps : List (List Byte)) (t : State) : Prop where
  run : runFor k s = .next t
  fsm : t.fsm = .idle
  delivered : t.delivered = s.delivered ++ ps.flatMap wireFrame
  taken : t.taken = s.taken ++ ps.map (readingOfPayload s.csumLast)
  faultCode : t.faultCode = s.faultCode

theorem HandsOver.trans {j k : Nat} {s u t : State} {ps qs : List (List Byte)} (h : HandsOver j s ps u)
    (h' : HandsOver k u qs t) : HandsOver (j + k) s (ps ++ qs) t where
  run := runFor_add j k h.run h'.run
  fsm := h'.fsm
  delivered := by rw [h'.delivered, h.delivered, List.flatMap_append, List.append_assoc]
  taken := by
    have hlast : u.csumLast = s.csumLast := by rw [State.csumLast, runFor_params h.run, State.csumLast]
    rw [h'.taken, h.taken, hlast, List.map_append, List.append_assoc]
  faultCode := h'.faultCode.trans h.faultCode

/-- A frame at the head of the queue is found and captured in 33 cycles and handed over in the 34th (R126, R231). -/
theorem frame_handed_over {s : State} {p rest : List Byte} {cs later : List CycleInput} (hf : s.fsm = .idle)
    (hqueue : s.queue = wireFrame p ++ rest) (hlen : p.length = 30) (hscript : s.script = cs ++ later)
    (hcs : cs.length = 34) (heager : ∀ c ∈ cs, Eager c) : ∃ t, HandsOver 34 s [p] t := by
  obtain ⟨search, last, rfl⟩ : ∃ search last, cs = search ++ [last] := by
    simpa using (List.eq_nil_or_concat cs).resolve_left (by rintro rfl; cases hcs)
  obtain ⟨gate, search, rfl⟩ := List.exists_cons_of_ne_nil (l := search) (by rintro rfl; cases hcs)
  simp only [List.length_append, List.length_cons, List.length_nil] at hcs
  have hsearch : ∀ c ∈ gate :: search, Eager c := fun c hc => heager c (List.mem_append_left _ hc)
  obtain ⟨⟨hrst, -⟩, -, -, hready⟩ : Eager last := heager last (by simp)
  obtain ⟨-, -, hrun, -⟩ := hsearch gate List.mem_cons_self
  obtain ⟨u, -, hu, hemit, hdata, -, -, -, hdelivered, htaken, hcode⟩ :=
    firstMarkerIsFoundAndItsPayloadOffered s [] p rest gate search (last :: later) hf hqueue hlen NoMarkerIn.nil
      (by simp [hscript]) (by simp only [List.length_nil]; omega) hrun fun c hc => ⟨(hsearch c hc).1, (hsearch c hc).2.1⟩
  have hpins : pins u = last := by
    refine pins_cons u last later ?_
    rw [runFor_script hu, hscript, List.append_assoc]
    exact List.drop_left' (by simp only [List.length_cons, List.length_nil]; omega)
  have hreading : readingOf u.csumLast u.buf = readingOfPayload s.csumLast p := by rw [← hdata, rdData, if_pos hemit]
  have haccept := step_accept hemit (hpins ▸ hrst) (hpins ▸ hready)
  refine ⟨_, ⟨runFor_add 33 1 hu ((runFor_succ 0 _ _).2 ⟨_, haccept, rfl⟩), rfl, ?_, ?_, hcode⟩⟩
  · simpa using hdelivered
  · simp [hreading, htaken]

/-- Frames back to back are handed over one after the other: what is popped of the queue for one frame leaves the next at
its head (R126). -/
theorem frames_handed_over {ps : List (List Byte)} {s : State} {rest : List Byte} {cs later : List CycleInput}
    (hf : s.fsm = .idle) (hqueue : s.queue = ps.flatMap wireFrame ++ rest) (hlen : ∀ p ∈ ps, p.length = 30)
    (hscript : s.script = cs ++ later) (hcs : cs.length = 34 * ps.length) (heager : ∀ c ∈ cs, Eager c) :
    ∃ t, HandsOver (34 * ps.length) s ps t := by
  induction ps generalizing s rest cs with
  | nil => exact ⟨s, rfl, hf, by simp, by simp, rfl⟩
  | cons p ps ih =>
    rw [List.length_cons, Nat.mul_succ] at hcs
    obtain ⟨first, others, rfl, hfirst⟩ : ∃ first others, cs = first ++ others ∧ first.length = 34 :=
      ⟨cs.take 34, cs.drop 34, (List.take_append_drop 34 cs).symm, List.length_take_of_le (by omega)⟩
    rw [List.length_append] at hcs
    rw [List.append_assoc] at hscript
    rw [List.flatMap_cons, List.append_assoc] at hqueue
    obtain ⟨u, hu⟩ := frame_handed_over hf hqueue (hlen p List.mem_cons_self) hscript hfirst fun c hc =>
      heager c (List.mem_append_left _ hc)
    obtain ⟨arrived, huqueue, -⟩ :=
      queue_of_run hscript (by rw [hfirst]; exact hu.run) (by simpa using hu.delivered) hqueue
    rw [List.append_assoc] at huqueue
    have huscript : u.script = others ++ later := by
      rw [runFor_script hu.run, hscript]
      exact List.drop_left' hfirst
    obtain ⟨t, ht⟩ := ih hu.fsm huqueue (fun p hp => hlen p (List.mem_cons_of_mem _ hp)) huscript (by omega) fun c hc =>
      heager c (List.mem_append_right _ hc)
    refine ⟨t, ?_⟩
    rw [List.length_cons, Nat.mul_succ, Nat.add_comm]
    exact hu.trans ht

/-! ## The statements -/

/-- Settles O40: the case the cycle is keeps the core in step, and the clock edge moves neither the core nor the bytes
popped. -/
theorem quietStepsFollowTheStream : Obligations.QuietStepsFollowTheStream := by
  intro s t hs hquiet h
  obtain ⟨u, hu, rfl⟩ := step_cases h
  exact hu.keeps_followsStream hquiet hs

/-- Settles O35. -/
theorem noPopOutsideTheSearchAndCapture : Obligations.NoPopOutsideTheSearchAndCapture := by
  intro s t hhunt hgot42 hpayload h
  obtain ⟨u, hu, rfl⟩ := step_cases h
  have hdelivered := hu.delivered_of_no_search hhunt hgot42 hpayload
  have hpop : srcPop s = false := (srcPop_eq_false_iff h).2 hdelivered
  obtain ⟨hqueue, -⟩ := step_agents h
  exact ⟨hpop, hdelivered, by simpa [queueAfterPop, hpop] using hqueue⟩

/-- Settles O34: of the cases of a cycle the gate alone enters HUNT from a state outside the search, and in IDLE nothing is
popped. -/
theorem huntBeginsAtTheGate : Obligations.HuntBeginsAtTheGate := by
  intro s t h ht hhunt hgot42
  obtain ⟨u, hu, rfl⟩ := step_cases h
  rw [State.endCycle_fsm] at ht
  cases hu with
  | gate hr hf he hrun hcount =>
    obtain ⟨-, hdelivered, hqueue⟩ := noPopOutsideTheSearchAndCapture s _ hhunt hgot42 (by simp [hf]) h
    exact ⟨hf, hrun, he, hr, (srcAvail_gate s).2 hcount, hcount.trans (reported_le s), hdelivered, hqueue⟩
  | faultHold | hold | wait | stall | discard => exact absurd ht hhunt
  | rehit hr hf | broken hr hf => exact absurd hf hgot42
  | capture hr hf => exact absurd ht hhunt
  | reset | accept | reserved | errIdle | errBusy | hit | lock | last => cases ht

/-- Settles O36. -/
theorem halfMarkerFollowsTheByte : Obligations.HalfMarkerFollowsTheByte := by
  intro s t hf hpop h
  obtain ⟨u, hu, rfl⟩ := step_cases h
  have hnew : u.delivered ≠ s.delivered := fun hsame => by simp [(srcPop_eq_false_iff h).2 hsame] at hpop
  exact hu.fsm_of_search_pop hf hnew

/-- Settles O38: what the run has popped is the frames, so the queue holds what stood behind them and what arrived. -/
theorem backToBackFramesTake34CyclesEach : Obligations.BackToBackFramesTake34CyclesEach := by
  intro ps s rest cs later hf hqueue hlen hscript hcs heager
  obtain ⟨t, ht⟩ := frames_handed_over hf hqueue hlen hscript hcs heager
  obtain ⟨arrived, htqueue, hall⟩ := queue_of_run hscript (hcs ▸ ht.run) ht.delivered hqueue
  exact ⟨t, arrived, ht.run, ht.fsm, ht.taken, htqueue, hall, ht.faultCode⟩

/-- Settles O42, by induction on the schedule: each stalled cycle is the clock edge alone, which with nothing appended
leaves the queue, and so the next cycle's stall, as they are. -/
theorem stallsLastUntilAByteArrives : Obligations.StallsLastUntilAByteArrives := by
  intro cs
  induction cs with
  | nil =>
    rintro later s - rfl -
    rfl
  | cons c cs ih =>
    intro later s hf hscript hcs
    obtain ⟨hquiet, happended, hheld⟩ := hcs c List.mem_cons_self
    have hpins : pins s = c := pins_cons s c _ hscript
    have hstall := step_stall hf (hpins ▸ hquiet) (by rw [reported, hpins]; omega)
    have hedge : s.endCycle (pins s) = { s with script := cs ++ later, cycle := s.cycle + 1 } := by
      simp [State.endCycle, hpins, happended, hscript]
    rw [hedge] at hstall
    refine (runFor_succ cs.length s _).2 ⟨_, hstall, ?_⟩
    rw [List.length_cons, Nat.add_comm cs.length, ← Nat.add_assoc]
    exact ih later _ hf rfl fun d hd => hcs d (List.mem_cons_of_mem _ hd)

/-- Settles O16: none of the six pops, and none writes a register. -/
theorem waitingOperationsChangeNothing : Obligations.WaitingOperationsChangeNothing :=
  fun s _ _ _ => ⟨exec_of_no_pop rfl s, exec_of_no_pop rfl s, exec_of_no_pop rfl s, exec_of_no_pop rfl s,
    exec_of_no_pop rfl s, exec_of_no_pop rfl s⟩

/-- Settles O17. -/
theorem gateOpensTheHunt : Obligations.GateOpensTheHunt := exec_of_no_pop rfl

/-- Settles O18. -/
theorem huntConsumesOneByte : Obligations.HuntConsumesOneByte :=
  fun _ _ => ⟨fun _ hq => exec_of_head rfl hq, fun hq => exec_of_head rfl hq⟩

/-- Settles O19. -/
theorem halfMarkerConsumesOneByte : Obligations.HalfMarkerConsumesOneByte :=
  fun _ _ => ⟨fun hq => exec_of_head rfl hq, fun hq => exec_of_head rfl hq, fun _ hq => exec_of_head rfl hq⟩

/-- Settles O20: both offsets lie inside `buf`, so the write takes effect there and nowhere else. -/
theorem payloadByteIsStored : Obligations.PayloadByteIsStored := by
  intro s q b hq
  refine ⟨fun hidx => ⟨s.buf.write s.idx.toNat b, fun a => ?_, exec_of_head rfl hq⟩,
    s.buf.write 29 b, fun a => ?_, exec_of_head rfl hq⟩
  · simp [Memory.read_write, hidx]
  · simp [Memory.read_write]

/-- Settles O39: no byte has been popped and no Reading offered. -/
theorem resetFollowsTheStream : Obligations.ResetFollowsTheStream :=
  (followsStream_searching (.inl rfl)).2 ⟨rfl, rfl⟩

end Sys2Proof.Machine

/-! # The decoder of `41_decoder.md`: lanes, checksum, validity flag and the hand-over

A lane is the number its two bytes write, and the checksum of at most twenty-eight bytes stays below `2^13`, so both sides of
the validity flag are compared as exact numbers: what a changed byte does to the flag is what it does to the sum. -/

namespace Sys2Proof.Machine

/-! ## Lanes -/

theorem toNat_lane (buf : Nat → Byte) (k : Nat) :
    (lane buf k).toNat = (buf (2 * k)).toNat * 256 + (buf (2 * k + 1)).toNat := by
  rw [lane, BitVec.toNat_append, ← Nat.shiftLeft_add_eq_or_of_lt (buf (2 * k + 1)).isLt, Nat.shiftLeft_eq]

/-- Port `rd_lane<k>` carries lane `k` (R37, R140). -/
theorem laneOf_readingFrom (last : Nat) (buf : Nat → Byte) {k : Nat} (hk : k < 15) :
    laneOf (readingFrom last buf) k = lane buf k := by
  interval_cases k <;> rfl

/-- A byte before offset 28 is no byte of the declared checksum, lane 14 (R147). -/
theorem lane_update_declared {i : Nat} (hi : i < 28) (buf : Nat → Byte) (v : Byte) :
    lane (Function.update buf i v) 14 = lane buf 14 :=
  lane_congr (Function.update_of_ne (by omega) _ _) (Function.update_of_ne (by omega) _ _)

/-! ## The sum of the bytes -/

theorem sumBytes_eq_sum (buf : Nat → Byte) (n : Nat) :
    sumBytes buf n = ((List.range n).map fun i => (buf i).toNat).sum := by
  induction n with
  | zero => rfl
  | succ n ih => rw [sumBytes, ih, List.sum_range_succ]

theorem sumBytes_le (buf : Nat → Byte) (n : Nat) : sumBytes buf n ≤ 255 * n := by
  induction n with
  | zero => exact le_rfl
  | succ n ih =>
    have hbyte : (buf n).toNat < 256 := (buf n).isLt
    rw [sumBytes]
    omega

theorem sumBytes_update_of_le {i n : Nat} (hn : n ≤ i) (buf : Nat → Byte) (v : Byte) :
    sumBytes (Function.update buf i v) n = sumBytes buf n :=
  sumBytes_congr fun j hj => Function.update_of_ne (by omega) _ _

/-- A byte of the sum that changes is exchanged in it for the new one. -/
theorem sumBytes_update {i n : Nat} (hi : i < n) (buf : Nat → Byte) (v : Byte) :
    sumBytes (Function.update buf i v) n + (buf i).toNat = sumBytes buf n + v.toNat := by
  induction n with
  | zero => exact absurd hi (Nat.not_lt_zero i)
  | succ n ih =>
    rw [sumBytes, sumBytes]
    obtain rfl | hne := eq_or_ne i n
    · rw [sumBytes_update_of_le le_rfl, Function.update_self]
      omega
    · have hbefore := ih (by omega)
      rw [Function.update_of_ne hne.symm]
      omega

/-! ## The checksum and the validity flag -/

theorem csumExact_le (last : Nat) (buf : Nat → Byte) : csumExact last buf ≤ 255 * (last + 2) := by
  have hsum := sumBytes_le buf (last + 1)
  rw [csumExact, Config.markerSum]
  omega

theorem markerSum_le_csumExact (last : Nat) (buf : Nat → Byte) : Config.markerSum ≤ csumExact last buf :=
  Nat.le_add_right _ _

theorem csumExact_update {i last : Nat} (hi : i ≤ last) (buf : Nat → Byte) (v : Byte) :
    csumExact last (Function.update buf i v) + (buf i).toNat = csumExact last buf + v.toNat := by
  have hsum := sumBytes_update (Nat.lt_add_one_of_le hi) buf v
  rw [csumExact, csumExact]
  omega

theorem csumExact_update_of_lt {i last : Nat} (hi : last < i) (buf : Nat → Byte) (v : Byte) :
    csumExact last (Function.update buf i v) = csumExact last buf := by
  rw [csumExact, csumExact, sumBytes_update_of_le hi]

section
variable {last : Nat} (hlast : last ≤ 27) (buf : Nat → Byte)
include hlast

/-- An accumulator of 13 bits holds the sum of either legal `CSUM_LAST` (R144). -/
theorem csumExact_lt : csumExact last buf < 2 ^ 13 := by
  have hle := csumExact_le last buf
  omega

theorem toNat_csumCalc : (csumCalc last buf).toNat = csumExact last buf := by
  have hlt := csumExact_lt hlast buf
  rw [csumCalc, BitVec.toNat_ofNat, Nat.mod_eq_of_lt (by omega)]

theorem csumExact_mod {w : Nat} (hw : 13 ≤ w) : csumExact last buf % 2 ^ w = csumExact last buf :=
  Nat.mod_eq_of_lt ((csumExact_lt hlast buf).trans_le (Nat.pow_le_pow_right two_pos hw))

/-- The flag compares the exact sum with the declared checksum (R143, R144). -/
theorem csumOk_iff : csumOk last buf = true ↔ csumExact last buf = (lane buf 14).toNat := by
  rw [csumOk, beq_iff_eq, ← BitVec.toNat_inj, toNat_csumCalc hlast]

/-- The marker's share keeps the sum from being 0 (R143). -/
theorem csumOk_of_declared_zero (h : lane buf 14 = 0) : csumOk last buf = false := by
  rw [← Bool.not_eq_true, csumOk_iff hlast, h]
  exact (Nat.lt_of_lt_of_le (by decide) (markerSum_le_csumExact last buf)).ne'

/-- A changed byte of the sum changes the sum and not the declared checksum (R146). -/
theorem csumOk_update_of_ne {i : Nat} {v : Byte} (hi : i ≤ last) (hv : v ≠ buf i) (hok : csumOk last buf = true) :
    csumOk last (Function.update buf i v) = false := by
  rw [csumOk_iff hlast] at hok
  rw [← Bool.not_eq_true, csumOk_iff hlast, lane_update_declared (by omega), ← hok]
  have hbyte : v.toNat ≠ (buf i).toNat := fun h => hv (BitVec.eq_of_toNat_eq h)
  have hsum := csumExact_update hi buf v
  omega

/-- Two changes of opposite amounts leave the sum and the declared checksum (R146). -/
theorem csumOk_update_opposite {i j : Nat} {v w : Byte} (hi : i ≤ last) (hj : j ≤ last) (hne : i ≠ j)
    (hopposite : v.toNat + w.toNat = (buf i).toNat + (buf j).toNat) (hok : csumOk last buf = true) :
    csumOk last (Function.update (Function.update buf i v) j w) = true := by
  rw [csumOk_iff hlast] at hok ⊢
  rw [lane_update_declared (by omega), lane_update_declared (by omega), ← hok]
  have hfirst := csumExact_update hi buf v
  have hsecond := csumExact_update hj (Function.update buf i v) w
  rw [Function.update_of_ne hne.symm] at hsecond
  omega

end

/-! ## The Reading on offer -/

theorem rdData_of_emit {s : State} (hf : s.fsm = .emit) : rdData s = readingOf s.csumLast s.buf := if_pos hf

/-- While the reader is not ready, a cycle of EMIT without reset is the clock edge alone (R152). -/
theorem step_hold {s : State} (hf : s.fsm = .emit) (hrst : (pins s).rst = false) (hready : (pins s).rdReady = false) :
    step s = .next (s.endCycle (pins s)) := by
  have hi : selectOp s = some .emitHold := by simp [selectOp_eq, decodeKey_eq, hrst, hready, hf]
  exact step_of_exec hi (exec_of_no_pop rfl s)

/-- A run whose every cycle is the clock edge alone changes no register: bytes arrive, and the schedule moves on. -/
theorem runFor_of_edges {cs later : List CycleInput} {s : State} (hscript : s.script = cs ++ later)
    (hedge : ∀ u : State, u.fsm = s.fsm → pins u ∈ cs → step u = .next (u.endCycle (pins u))) :
    ∃ arrived, runFor cs.length s =
      .next { s with queue := s.queue ++ arrived, script := later, cycle := s.cycle + cs.length } := by
  induction cs generalizing s with
  | nil =>
    obtain rfl : s.script = later := hscript
    exact ⟨[], by simp⟩
  | cons c cs ih =>
    have hpins : pins s = c := pins_cons s c _ hscript
    have hstep := hedge s rfl (hpins ▸ List.mem_cons_self)
    obtain ⟨arrived, hrun⟩ := ih (s := s.endCycle (pins s)) (by simp [hscript]) fun u hu hmem =>
      hedge u hu (List.mem_cons_of_mem c hmem)
    refine ⟨arriving s.params s.cycle s.queue.length (pins s).appended ++ arrived,
      (runFor_succ cs.length s _).2 ⟨_, hstep, hrun.trans ?_⟩⟩
    simp [State.endCycle, Nat.add_assoc, Nat.add_comm 1]

/-! ## The statements -/

/-- Settles O43: the wait leaves every register as it was, and the queue holds what stood in it and what arrived. -/
theorem offerIsStableUntilAccepted : Obligations.OfferIsStableUntilAccepted := by
  intro cs later s hf hscript hcs
  obtain ⟨arrived, hrun⟩ := runFor_of_edges hscript fun u hu hmem =>
    have ⟨hrst, hready⟩ := hcs _ hmem
    step_hold (hu.trans hf) hrst hready
  obtain ⟨came, hqueue, hall⟩ := queue_of_run (popped := []) hscript hrun (List.append_nil _).symm rfl
  obtain rfl : arrived = came := List.append_cancel_left hqueue
  refine ⟨_, arrived, hrun, by simp [rdValid, hf], ?_, rfl, hall⟩
  rw [rdData_of_emit hf, rdData_of_emit (by exact hf)]
  rfl

/-- Settles O51. -/
theorem laneIsBigEndian : Obligations.LaneIsBigEndian :=
  fun last buf k hk => ⟨toNat_lane buf k, laneOf_readingFrom last buf hk⟩

/-- Settles O52. -/
theorem readingDependsOnThirtyBytes : Obligations.ReadingDependsOnThirtyBytes := by
  refine ⟨fun c buf buf' => readingFrom_congr c, fun c c' buf buf' k hk h0 h1 => ?_⟩
  rw [laneOf_readingFrom _ _ hk, laneOf_readingFrom _ _ hk, lane_congr h0 h1]

/-- Settles O54. -/
theorem checksumSumsMarkerAndPayload : Obligations.ChecksumSumsMarkerAndPayload := by
  refine ⟨fun last buf => ?_, fun s hf => ?_, fun s => ⟨fun h => ?_, fun h => ?_⟩, rfl⟩
  · rw [csumCalc, BitVec.toNat_ofNat, csumExact, sumBytes_eq_sum, Config.markerSum]
  · rw [rdData_of_emit hf]
    rfl
  · rw [State.csumLast, h, CsumLast.offset]
  · rw [State.csumLast, h, CsumLast.offset]

/-- Settles O55: 27 or 28 bytes of at most 255 and the marker's share of 255 stay below `2^13`. -/
theorem checksumNeverWraps : Obligations.ChecksumNeverWraps := by
  have h26 : 26 ≤ 27 := by decide
  exact fun buf => ⟨csumExact_le 26 buf, csumExact_le 27 buf, toNat_csumCalc h26 buf, toNat_csumCalc le_rfl buf,
    fun w hw => ⟨csumExact_mod h26 buf hw, csumExact_mod le_rfl buf hw⟩⟩

/-- Settles O56: a declared 0 is less than the marker's share of any sum. -/
theorem validityIsEqualityAndZeroIsInvalid : Obligations.ValidityIsEqualityAndZeroIsInvalid :=
  fun last buf => ⟨beq_iff_eq, fun h =>
    ⟨csumOk_of_declared_zero (by decide) buf h, csumOk_of_declared_zero le_rfl buf h⟩⟩

/-- Settles O57: the flag follows the exact sum, since offset 27 and those before it are no part of the declared checksum. -/
theorem singleByteChangeIsDetected : Obligations.SingleByteChangeIsDetected := by
  have legal {last : Nat} (h : last = 26 ∨ last = 27) : last ≤ 27 := by omega
  refine ⟨fun last buf i v hlast hok hi hv => csumOk_update_of_ne (legal hlast) buf hi hv hok, fun buf v => ?_,
    fun last buf i j v w hlast hok hi hj hne hopposite =>
      csumOk_update_opposite (legal hlast) buf hi hj hne hopposite hok⟩
  rw [csumOk, csumOk, csumCalc, csumCalc, csumExact_update_of_lt (by decide), lane_update_declared (by decide)]

/-- Settles O22. -/
theorem acceptHandsTheReadingOver : Obligations.AcceptHandsTheReadingOver :=
  fun s => ⟨exec_of_no_pop rfl s, rdData_of_emit⟩

/-- Settles O53: field by field the thirteen names are lanes 0 to 12, and each lane is its two bytes. -/
theorem namedFieldsAreTheirLanes : Obligations.NamedFieldsAreTheirLanes := by
  refine fun last buf => ⟨?_, rfl, rfl, rfl, rfl, toNat_lane buf 13⟩
  calc
    _ = (List.range 13).map (fun k => (lane buf k).toNat) := rfl
    _ = _ := List.map_congr_left fun k _ => toNat_lane buf k

end Sys2Proof.Machine

/-! # The faults of `60_exceptions.md`: the priority order, the TransportError, the wait in FAULT

The operation of a cycle is read off the priority order of R189, so what a cycle does in FAULT, in IDLE and with a transport
error is that operation's register writes and then the clock edge. -/

namespace Sys2Proof.Machine

/-! ## The priority order -/

/-- A byte is shown exactly where one is counted (R28, R50). -/
theorem shown_cases (s : State) : (reported s = 0 ∧ shown s = none) ∨ (reported s ≠ 0 ∧ ∃ b, shown s = some b) := by
  by_cases hv : reported s = 0
  · exact .inl ⟨hv, shown_eq_none hv⟩
  · obtain ⟨b, q, hq⟩ := exists_head hv
    exact .inr ⟨hv, b, shown_eq_head hv hq⟩

/-- Settles O9: state by state the first row the key matches is the next entry of the order; in the states that read the
source, `nz` and `data` of the key are the byte shown. -/
theorem oneOperationByPriority : Obligations.OneOperationByPriority := by
  intro s
  rw [selectOp, decodeKeyOf_eq, decodeKey_eq, operationOf]
  simp only [Key.rst_mkKey, Key.err_mkKey, Key.run_mkKey, Key.ge32_mkKey, Key.nz_mkKey, Key.rdy_mkKey, Key.fsm_mkKey,
    Key.last_mkKey, Key.data_mkKey, Config.marker0, Config.marker1]
  by_cases hrst : (pins s).rst = true
  · rw [if_pos hrst, if_pos hrst]
  rw [if_neg hrst, if_neg hrst]
  cases s.fsm with
  | fault | emit | rsv101 | rsv110 => rfl
  | idle => rw [Bool.and_comm (pins s).srcErr]
  | hunt | got42 | payload =>
    rcases shown_cases s with ⟨hv, hshown⟩ | ⟨hv, b, hshown⟩ <;> simp [hv, hshown]

/-! ## Cycles with and without a fault -/

/-- Where the source is read, a transport error takes its fault and pops nothing, whatever the source shows (R182, R183). -/
theorem step_transportError {s : State} (hrst : (pins s).rst = false) (herr : (pins s).srcErr = true)
    (hf : s.fsm = .hunt ∨ s.fsm = .got42 ∨ s.fsm = .payload ∨ (s.fsm = .idle ∧ (pins s).run = true)) :
    step s = .next ((s.raise .transport).endCycle (pins s)) := by
  have hop : operationOf s = .errIdle ∨ ∃ held, operationOf s = .errBusy held := by
    rcases hf with hf | hf | hf | ⟨hf, hrun⟩ <;> simp [operationOf, *]
  rcases hop with hop | ⟨held, hop⟩ <;>
    exact step_of_exec (hop ▸ oneOperationByPriority s) (exec_of_no_pop rfl s)

/-- With `run` 0 a cycle of IDLE without reset is the clock edge alone (R110). -/
theorem step_wait {s : State} (hf : s.fsm = .idle) (hrst : (pins s).rst = false) (hrun : (pins s).run = false) :
    step s = .next (s.endCycle (pins s)) := by
  have hop : operationOf s = .idleWait false (pins s).srcErr (decide (32 ≤ reported s)) := by
    simp [operationOf, hf, hrst, hrun]
  exact step_of_exec (hop ▸ oneOperationByPriority s) (exec_of_no_pop rfl s)

/-- In FAULT only a reset precedes FAULT_HOLD (R184, R189). -/
theorem selectOp_faultHold {s : State} (hf : s.fsm = .fault) (hrst : (pins s).rst = false) :
    selectOp s = some .faultHold := by
  rw [oneOperationByPriority s, operationOf, hrst, hf]
  rfl

/-- In a reset cycle, in EMIT and in FAULT the value of `src_err` changes neither the operation nor its effect (R181). -/
theorem step_srcErr_congr {s : State} {c : CycleInput} (later : List CycleInput) (e : Bool)
    (h : c.rst = true ∨ s.fsm = .emit ∨ s.fsm = .fault) :
    step { s with script := { c with srcErr := e } :: later } = step { s with script := c :: later } := by
  refine step_script_congr ?_ rfl
  rw [oneOperationByPriority, oneOperationByPriority]
  rcases h with hrst | hf | hf
  · simp [operationOf, pins, hrst]
  all_goals
    simp only [operationOf, hf]
    rfl

/-! ## The statements -/

/-- Settles O44: FAULT_HOLD is the clock edge alone, so a run of it pops nothing and changes no register. -/
theorem faultLastsUntilReset : Obligations.FaultLastsUntilReset := by
  intro cs later s hf hscript hcs
  obtain ⟨arrived, hrun⟩ := runFor_of_edges hscript fun u hu hmem =>
    step_of_exec (selectOp_faultHold (hu.trans hf) (hcs _ hmem)) (exec_of_no_pop rfl u)
  obtain ⟨came, hqueue, hall⟩ := queue_of_run (popped := []) hscript hrun (List.append_nil _).symm rfl
  obtain rfl : arrived = came := List.append_cancel_left hqueue
  refine ⟨by simp [rdValid, hf], fun hrst => ?_, arrived, hrun, hall⟩
  have hi := selectOp_faultHold hf hrst
  exact ⟨hi, srcPop_of_selectOp hi⟩

/-- Settles O45: where `src_err` is not examined the operation is the same for both values, but for IDLE_WAIT, which names
the value and writes nothing. -/
theorem transportErrorIsTakenWhereTheSourceIsRead : Obligations.TransportErrorIsTakenWhereTheSourceIsRead := by
  refine ⟨fun _ => step_transportError, fun s c later e hf => ?_⟩
  rcases hf with hf | hf | ⟨hf, hrun⟩
  · exact step_srcErr_congr later e (.inr (.inl hf))
  · exact step_srcErr_congr later e (.inr (.inr hf))
  · by_cases hrst : c.rst = true
    · exact step_srcErr_congr later e (.inl hrst)
    · rw [Bool.not_eq_true] at hrst
      have hwait := step_wait (s := { s with script := c :: later }) hf hrst hrun
      exact (step_wait (s := { s with script := { c with srcErr := e } :: later }) hf hrst hrun).trans hwait.symm

end Sys2Proof.Machine

/-! # Reset and hazards of `70_reset_and_hazards.md`: the reset cycle, a pop without its byte, two runs on one stream

A reset cycle is `State.resetCore` and then the clock edge, whatever else holds in it. Two runs agree on the Readings because
each of them follows the bytes it has popped, and more bytes only add to the Readings of a stream. -/

namespace Sys2Proof.Machine

/-! ## The reset cycle -/

/-- A reset precedes every other operation (R189). -/
theorem selectOp_rst {s : State} (hrst : (pins s).rst = true) : selectOp s = some .rst := by
  rw [oneOperationByPriority s, operationOf, if_pos hrst]

/-- A reset cycle is the reset of the core and then the clock edge, whatever the state and the other inputs (R210). -/
theorem step_reset {s : State} (hrst : (pins s).rst = true) : step s = .next (s.resetCore.endCycle (pins s)) :=
  step_of_exec (selectOp_rst hrst) (exec_of_no_pop rfl s)

theorem resetCore_resetCore (s : State) : s.resetCore.resetCore = s.resetCore := rfl

/-! ## A pop without its byte -/

/-- A pop needs a byte in the queue, and its own byte there (R220, I8). -/
theorem popByte_without_byte (b : Byte) (k : State → State) (s : State) :
    (s.queue = [] → popByte b k s = .refused .popFromEmpty) ∧
      ∀ h q, s.queue = h :: q → h ≠ b → popByte b k s = .refused .dataNotHead := by
  refine ⟨fun hq => ?_, fun h q hq hne => ?_⟩
  · simp only [popByte, hq]
  · simp only [popByte, hq, if_neg hne]

/-! ## The reading of a stream and of its beginnings -/

/-- One more byte completes a frame or none, and takes none back. -/
theorem frames_prefix_scanByte (c : Scan) (b : Byte) : c.frames <+: (scanByte c b).frames := by
  unfold scanByte
  cases c.phase with
  | hunt | half => exact List.prefix_rfl
  | payload got =>
    dsimp only
    split
    · exact List.prefix_rfl
    · exact List.prefix_append _ _

theorem scan_frames_prefix {l l' : List Byte} (h : l <+: l') : (scan l).frames <+: (scan l').frames := by
  obtain ⟨more, rfl⟩ := h
  induction more using List.reverseRecOn with
  | nil => rw [List.append_nil]
  | append_singleton more b ih =>
    rw [← List.append_assoc, scan_snoc]
    exact ih.trans (frames_prefix_scanByte _ b)

/-- The Readings of a beginning of a stream are a beginning of the Readings of the stream (R232). -/
theorem streamReadings_prefix (last : Nat) {l l' : List Byte} (h : l <+: l') :
    streamReadings last l <+: streamReadings last l' :=
  (scan_frames_prefix h).map _

/-! ## Quiet runs -/

/-- A run over a quiet schedule keeps the core in step with the bytes it has popped (R124, R232). -/
theorem runFor_keeps_followsStream {cs later : List CycleInput} {s t : State} (hs : FollowsStream s)
    (hscript : s.script = cs ++ later) (hquiet : ∀ c ∈ cs, Quiet c)
    (h : runFor cs.length s = .next t) : FollowsStream t := by
  induction cs generalizing s with
  | nil => cases h; exact hs
  | cons c cs ih =>
    obtain ⟨u, hu, h⟩ := (runFor_succ cs.length s t).1 h
    have hpins : pins s = c := pins_cons s c _ hscript
    obtain ⟨-, -, hrest, -⟩ := step_agents hu
    exact ih (quietStepsFollowTheStream s u hs (hpins ▸ hquiet c List.mem_cons_self) hu) (by rw [hrest, hscript]; rfl)
      (fun d hd => hquiet d (List.mem_cons_of_mem c hd)) h

/-- What a quiet run from IDLE with empty records has offered is what the bytes it has popped give. -/
theorem offered_of_quiet_run {cs : List CycleInput} {s t : State} (hf : s.fsm = .idle) (hdelivered : s.delivered = [])
    (htaken : s.taken = []) (hscript : s.script = cs) (hquiet : ∀ c ∈ cs, Quiet c) (h : runFor cs.length s = .next t) :
    offered t = streamReadings s.csumLast t.delivered := by
  have hs : FollowsStream s := (followsStream_searching (.inl hf)).2 (by rw [htaken, hdelivered]; exact ⟨rfl, rfl⟩)
  obtain ⟨hoffered, -⟩ := runFor_keeps_followsStream hs (hscript.trans (List.append_nil cs).symm) hquiet h
  rw [hoffered, State.csumLast, runFor_params h]
  rfl

/-! ## The statements -/

/-- Settles O41: each run has offered the Readings of the bytes it has popped, and those grow with the bytes. -/
theorem readingsDependOnTheStreamAlone : Obligations.ReadingsDependOnTheStreamAlone := by
  intro cs ds s₀ t₀ s t hf hdelivered htaken hscript hquiet hf' hdelivered' htaken' hscript' hquiet' hlast hs ht
  have hoffered := offered_of_quiet_run hf hdelivered htaken hscript hquiet hs
  have hoffered' := offered_of_quiet_run hf' hdelivered' htaken' hscript' hquiet' ht
  have hcsum : t₀.csumLast = s₀.csumLast := congrArg CsumLast.offset hlast.symm
  rw [hoffered, hoffered', hcsum]
  exact ⟨streamReadings_prefix _, fun stream => streamReadings_prefix _⟩

/-- Settles O14: the operation, the cycle and its outputs are read off the one next state of a reset. -/
theorem resetFromAnyState : Obligations.ResetFromAnyState := by
  refine ⟨fun s => ⟨_, exec_of_no_pop rfl s, rfl, rfl, rfl, rfl, rfl, rfl⟩, fun s t h => ?_, fun s hrst => ?_⟩
  · obtain rfl : s.resetCore = t := Host.Outcome.next.inj ((exec_of_no_pop rfl s).symm.trans h)
    exact (exec_of_no_pop rfl _).trans (congrArg Host.Outcome.next (resetCore_resetCore s))
  · have hi := selectOp_rst hrst
    exact ⟨hi, srcPop_of_selectOp hi, _, step_reset hrst, rfl, rfl, rfl, rfl, rfl, rfl, rfl, rfl, rfl⟩

/-- Settles O49: the reset overwrites the three registers in which the two states differ. -/
theorem resetForgetsTheAttempt : Obligations.ResetForgetsTheAttempt := by
  intro s f i fc hrst
  have hother : (pins { s with fsm := f, idx := i, faultCode := fc }).rst = true := hrst
  rw [step_reset hother, step_reset hrst]
  rfl

/-- Settles O24: a popping operation is the pop of its byte and then its register writes. -/
theorem popWithoutItsByteStops : Obligations.PopWithoutItsByteStops := by
  intro s i b hp
  rw [exec_of_pop hp]
  exact popByte_without_byte b _ s

/-- Settles O58: the reset keeps the record of Readings taken and leaves EMIT. -/
theorem resetInEmitHandsNothingOver : Obligations.ResetInEmitHandsNothingOver := by
  refine ⟨exec_of_no_pop rfl, fun s t _ hrst h => ?_⟩
  obtain rfl : s.resetCore.endCycle (pins s) = t := Host.Outcome.next.inj ((step_reset hrst).symm.trans h)
  exact ⟨rfl, rfl⟩

end Sys2Proof.Machine
